-- ==== Sys2Proof/Word.lean ====
section
/-! DEFINITION. The value types of 00_scope.md rule R1 and the block XOR of rule R4. Byte order, padding and
addition are not here: they are in Machine/Bytes.lean and Machine/Arith.lean. -/

namespace Sys2Proof

/-- A byte, an unsigned value 0..255 (00_scope.md rule R1). -/
abbrev Byte := BitVec 8

/-- A word: exactly 8 bytes, `w[0]` first (00_scope.md rule R1). -/
abbrev Word := Vector Byte 8

/-- A block: exactly 64 bytes, `v[0]` first (00_scope.md rule R1). A value of another width cannot be written down, so
the source's "Precondition violation" cannot arise (rules R79 and R138). -/
abbrev Block := Vector Byte 64

/-- The value of one 64-bit host-visible register or of one bus access (10_state.md section 3). -/
abbrev Reg64 := BitVec 64

/-- `a XOR b` on blocks, byte by byte (00_scope.md rule R4). -/
def Block.xor (a b : Block) : Block := Vector.zipWith (fun x y => x ^^^ y) a b

/-- `zeros(64)` (00_scope.md rule R4). -/
def Block.zeros : Block := Vector.replicate 64 0

end Sys2Proof
end

