-- ==== Sys2Proof/Config.lean ====
section
/-! DEFINITION. What one built block fixes and the host cannot change: the OPEN parameters `K` and `CORE_BASE` of
92_eei_decisions.md, and the free value for the platform's own responses. The third OPEN parameter, `LAT`, has no
place in a model without time (70_reset_and_hazards.md rule R160; log entry 6).

A `Config` is carried in `Machine.State` because `step` has no other argument. `K` is no state of the block (10_state.md
rule R20), and the platform sets `CORE_BASE` (20_memory.md rule R31): no step changes either (log entry 1). -/

namespace Sys2Proof

/-- The constant dataset `K` (44_constant_dataset.md rule R120). The sizes of rules R121 to R123 are the types' own.
The permutation map is not a field: it is fixed (40_primitives.md rule R71). -/
structure Dataset where
  /-- `K.Pi`, the substitution map (rule R121). -/
  pi : Vector Byte 256
  /-- `K.A`, the rows of the linear matrix, each the big-endian reading of its 8 bytes (rule R122). -/
  a : Vector (BitVec 64) 64
  /-- `K.C`; `c[i - 1]` is the round constant `C_i` (rule R123). -/
  c : Vector Block 12
  /-- `K.IV512` (rule R124). -/
  iv512 : Block
  /-- `K.IV256` (rule R124). -/
  iv256 : Block
  deriving DecidableEq, Repr

/-- The parameters of one block on its platform (92_eei_decisions.md, "Named OPEN parameters"). -/
structure Config where
  /-- The constant dataset `K` (44_constant_dataset.md rule R120). -/
  dataset : Dataset
  /-- `CORE_BASE`, the byte address of the register window (20_memory.md rule R31). -/
  coreBase : Nat
  deriving DecidableEq, Repr

/-- What the platform's interconnect, not the block, answers to an access. Which of these it is is OPEN
(20_memory.md rule R31, 70_reset_and_hazards.md rule R151; 93_implementation_defined.md U12 and U13). -/
inductive PlatformReply where
  | okay (data : Reg64)
  | error (data : Reg64)
  | silent
  deriving DecidableEq, Repr, Inhabited

/-- FREE VALUE. The platform's answer number `k` to an access that the block does not answer. The spec leaves it OPEN
(92_eei_decisions.md D28 and D37); nothing constrains it (log entry 5). -/
opaque Config.platformReply : Nat → PlatformReply

end Sys2Proof
end

