-- ==== Sys2Proof/Syntax.lean ====
section
/-! DEFINITION. The commands of opcode_table.json, one constructor a row (30_encoding.md rule R53). -/

namespace Sys2Proof

/-- A command. The message bytes of INGEST are no operand: they come from DATA (30_encoding.md rule R52). -/
inductive Instr where
  /-- `INIT w`, OPC 1: start an instance of digest width `w` (43_commands.md rule R101). -/
  | init (width : BitVec 16)
  /-- `INGEST n`, OPC 2: take `n` bytes from DATA (43_commands.md rule R102). -/
  | ingest (count : BitVec 4)
  /-- `FINALIZE`, OPC 3 (43_commands.md rule R104). -/
  | finalize
  /-- `CLRERR`, OPC 4 (43_commands.md rule R106). -/
  | clrerr
  deriving DecidableEq, Repr

end Sys2Proof
end

