-- ==== Sys2Proof/WellFormed.lean ====
section
/-! DEFINITION. Which commands have an encoding, and which parameters the spec admits. -/

namespace Sys2Proof

/-- A command that the encoding admits: INGEST takes at most 8 bytes (30_encoding.md rules R53 and R54). Every 16-bit
WIDTH is a legal encoding of INIT: a width other than 256 and 512 fails later (rule R54). -/
def Instr.wf : Instr → Bool
  | .init _ => true
  | .ingest count => decide (count.toNat ≤ 8)
  | .finalize => true
  | .clrerr => true

/-- `WF(K)` (44_constant_dataset.md rule R125). The sizes it asks for hold by the types. -/
abbrev Dataset.Wf (k : Dataset) : Prop :=
  k.pi.toList.Perm ((List.range 256).map (BitVec.ofNat 8)) ∧ k.iv512 = Block.zeros ∧ k.iv256 ≠ Block.zeros

/-- What the spec asks of the parameters: `WF(K)` (rule R125), and `CORE_BASE` a multiple of 128
(20_memory.md rule R31). -/
abbrev Config.Wf (c : Config) : Prop :=
  c.dataset.Wf ∧ c.coreBase % 128 = 0

end Sys2Proof
end

