-- ==== Sys2Proof/Decode.lean ====
section
/-! DEFINITION. The command word of 30_encoding.md: its fields, the legality check, the decoder and the encoder. -/

namespace Sys2Proof

/-! ## The fields of a command word (30_encoding.md rules R50 and R52) -/

/-- OPC, `v[3:0]`. -/
def opc (v : Reg64) : BitVec 4 := v.extractLsb' 0 4

/-- RSV0, `v[7:4]`. -/
def rsv0 (v : Reg64) : BitVec 4 := v.extractLsb' 4 4

/-- COUNT, `v[11:8]`. -/
def countField (v : Reg64) : BitVec 4 := v.extractLsb' 8 4

/-- RSV1, `v[15:12]`. -/
def rsv1 (v : Reg64) : BitVec 4 := v.extractLsb' 12 4

/-- WIDTH, `v[31:16]`. -/
def widthField (v : Reg64) : BitVec 16 := v.extractLsb' 16 16

/-- RSV2, `v[63:32]`. -/
def rsv2 (v : Reg64) : BitVec 32 := v.extractLsb' 32 32

/-- `legal(v)` (30_encoding.md rule R54), clause by clause. -/
def legal (v : Reg64) : Bool :=
  (opc v == 1 || opc v == 2 || opc v == 3 || opc v == 4)
    && rsv0 v == 0 && rsv1 v == 0 && rsv2 v == 0
    && (opc v == 2 || countField v == 0)
    && (opc v == 1 || widthField v == 0)
    && (opc v != 2 || decide (countField v ≤ 8))

/-! ## The decoder -/

/-- Why a word is illegal (30_encoding.md rule R55). The block keeps none of these: every illegal word reports the one
code ILLEGAL_COMMAND (60_exceptions.md rule R132). -/
inductive DecodeError where
  /-- OPC is 0 or 5 to 15. -/
  | undefinedOpcode
  /-- A bit of RSV0, RSV1 or RSV2 is set. -/
  | reservedBits
  /-- COUNT is not 0 and OPC is not INGEST. -/
  | strayCount
  /-- WIDTH is not 0 and OPC is not INIT. -/
  | strayWidth
  /-- INGEST with COUNT 9 to 15. -/
  | countTooLarge
  deriving DecidableEq, Repr

/-- The command a word stands for, or why it is illegal (30_encoding.md rules R53 to R55). One branch per row of the
opcode map; reserved bits are checked for every row. -/
def decode (v : Reg64) : Except DecodeError Instr :=
  if rsv0 v ≠ 0 ∨ rsv1 v ≠ 0 ∨ rsv2 v ≠ 0 then .error .reservedBits
  else if opc v = 1 then
    if countField v ≠ 0 then .error .strayCount else .ok (.init (widthField v))
  else if opc v = 2 then
    if widthField v ≠ 0 then .error .strayWidth
    else if countField v ≤ 8 then .ok (.ingest (countField v)) else .error .countTooLarge
  else if opc v = 3 then
    if countField v ≠ 0 then .error .strayCount
    else if widthField v ≠ 0 then .error .strayWidth else .ok .finalize
  else if opc v = 4 then
    if countField v ≠ 0 then .error .strayCount
    else if widthField v ≠ 0 then .error .strayWidth else .ok .clrerr
  else .error .undefinedOpcode

/-! ## The encoder -/

/-- The word with the given OPC, COUNT and WIDTH, every reserved field 0 (30_encoding.md rules R50 and R56). -/
def commandWord (width : BitVec 16) (count opcode : BitVec 4) : Reg64 :=
  opcode.setWidth 64 ||| count.setWidth 64 <<< 8 ||| width.setWidth 64 <<< 16

/-- The one word that encodes a command (30_encoding.md rules R53 and R56). -/
def encode : Instr → Reg64
  | .init width => commandWord width 0 1
  | .ingest count => commandWord 0 count 2
  | .finalize => commandWord 0 0 3
  | .clrerr => commandWord 0 0 4

/-- The instruction the decoder reads from the bits `w` of a table row of `nbits` bits, the bits above `nbits` zero.
The row's numbering is the command word's own: one 64-bit value, bit 0 its least significant bit. -/
def decodeTableWord (nbits w : Nat) : Option Instr :=
  match decode (BitVec.ofNat 64 (w % 2 ^ nbits)) with
  | .ok i => some i
  | .error _ => none

end Sys2Proof
end

