-- ==== Sys2Proof/Machine/Bytes.lean ====
section
/-! DEFINITION. Byte order: the big-endian readings of 00_scope.md rule R2 and the words inside a block. Every use of a
byte string as a number, and back, goes through this file (20_memory.md rule R35). -/

namespace Sys2Proof.Machine

/-- The big-endian reading of a byte string of any length, first byte most significant (00_scope.md rule R2). -/
def natBE (bytes : List Byte) : Nat := bytes.foldl (fun acc b => 256 * acc + b.toNat) 0

/-- `int_BE(v)` (00_scope.md rule R2). -/
def intBE (v : Block) : Nat := natBE v.toList

/-- `vec_BE(x)`: the block whose big-endian reading is `x mod 2^512` (00_scope.md rule R2). -/
def vecBE (x : Nat) : Block := Vector.ofFn fun i => BitVec.ofNat 8 (x / 256 ^ (63 - i.val))

/-- `int_BE8(w)`, as the 64-bit value it is used as (00_scope.md rule R2). -/
def intBE8 (w : Word) : BitVec 64 := BitVec.ofNat 64 (natBE w.toList)

/-- `word_BE(x)` (00_scope.md rule R2). -/
def wordBE (x : BitVec 64) : Word := Vector.ofFn fun i => x.extractLsb' (8 * (7 - i.val)) 8

/-- The block whose 64 bytes are the first 64 of a byte string; a shorter string is filled with zero bytes at its end
(no rule passes a shorter one). -/
def blockOfBytes (bytes : List Byte) : Block := Vector.ofFn fun i => bytes.getD i.val 0

/-- `v[8k .. 8k+7]`, the `k`-th of the eight words of a block (40_primitives.md rule R75). -/
def wordAt (v : Block) (k : Fin 8) : Word := Vector.ofFn fun i => v[8 * k.val + i.val]

/-- The block made of eight words, word 0 first (40_primitives.md rule R75). -/
def blockOfWords (ws : Vector Word 8) : Block :=
  Vector.ofFn fun i => (ws[i.val / 8]'(by omega))[i.val % 8]'(by omega)

end Sys2Proof.Machine
end

