-- ==== Sys2Proof/Machine/Arith.lean ====
section
/-! DEFINITION. The 512-bit modular adder and the padding of 42_arith_padding.md. -/

namespace Sys2Proof.Machine

/-- `ADD512(a, b)` (rule R90): unsigned, big-endian, modulo 2^512, the carry out discarded. -/
def add512 (a b : Block) : Block := vecBE ((intBE a + intBE b) % 2 ^ 512)

/-- The addend of the block-length update, `vec_BE(512)` (rule R92). -/
def blockBits : Block := vecBE 512

/-- The addend of the tail-length update for a tail of `r` bytes, `vec_BE(8r)` (rule R94). -/
def tailBits (r : Nat) : Block := vecBE (8 * r)

/-- `PAD(t)` (rule R95): zeros, the marker byte 0x01, then the tail in the last bytes of the block. -/
def pad (tail : List Byte) : Block :=
  blockOfBytes (List.replicate (63 - tail.length) 0 ++ [1] ++ tail)

end Sys2Proof.Machine
end

