-- ==== Sys2Proof/Machine/Primitives.lean ====
section
/-! DEFINITION. The transform primitives of 40_primitives.md: S, P, LW, L, X, LPS and KLPS. Each is a total function of
fixed-width values (rule R79); those that read the constant dataset take it as an argument. -/

namespace Sys2Proof.Machine

/-- `S(v)`, the source's Substitute (rule R70). -/
def substitute (k : Dataset) (v : Block) : Block := v.map fun b => k.pi[b.toNat]'b.isLt

/-- `TAU`, the transposition of an 8 by 8 byte matrix (rule R71). -/
def tau (i : Fin 64) : Fin 64 := ⟨8 * (i.val % 8) + i.val / 8, by omega⟩

/-- `P(v)`, the source's Permute (rule R72). -/
def permute (v : Block) : Block := Vector.ofFn fun i => v[tau i]

/-- The loop of rule R73 over the input bits `0 .. count - 1`: bit `j` selects row `63 - j`. -/
def linearRows (a : Vector (BitVec 64) 64) (x : BitVec 64) : (count : Nat) → BitVec 64
  | 0 => 0
  | j + 1 => if x.getLsbD j then linearRows a x j ^^^ a[63 - j] else linearRows a x j

/-- `LW(w)`, the source's LinearWord (rule R73). -/
def linearWord (k : Dataset) (w : Word) : Word := wordBE (linearRows k.a (intBE8 w) 64)

/-- `L(v)`, the source's Linear: LW on each of the eight words (rule R75). -/
def linear (k : Dataset) (v : Block) : Block :=
  blockOfWords (Vector.ofFn fun i => linearWord k (wordAt v i))

/-- `X(a, b)`, the source's Xor (rule R76). -/
def xorBlock (a b : Block) : Block := Block.xor a b

/-- `LPS(v)`, the source's NonlinearChain (rule R77). -/
def lps (k : Dataset) (v : Block) : Block := linear k (permute (substitute k v))

/-- `KLPS(key, v)`, the source's KeyedNonlinearChain (rule R78). -/
def klps (k : Dataset) (key v : Block) : Block := lps k (xorBlock key v)

end Sys2Proof.Machine
end

