-- ==== Sys2Proof/Machine/Compress.lean ====
section
/-! DEFINITION. The compression function of 41_compression.md. -/

namespace Sys2Proof.Machine

/-- One round of the loop of rule R83 on the pair `(K, E)`: first `E`, with the round key as it stands, then the next
round key from the round constant `c`. -/
def compressRound (k : Dataset) (ke : Block × Block) (c : Block) : Block × Block :=
  (lps k (xorBlock ke.1 c), lps k (xorBlock ke.1 ke.2))

/-- `g(n, h, m)`, the source's Compress (rule R83): the 12 rounds of one loop, one for each round constant, the
whitening with `K_13`, and the feed-forward of `h` and `m`. (`irreducible` only keeps the elaborator from unfolding it
unasked; `unfold` and the kernel do.) -/
@[irreducible] def compress (k : Dataset) (n h m : Block) : Block :=
  let ke := k.c.toList.foldl (compressRound k) (lps k (xorBlock h n), m)
  xorBlock (xorBlock (xorBlock ke.1 ke.2) h) m

/-- The key schedule written on its own (rule R81): `roundKey k h n i` is `K_(i+1)`, for `i = 0 .. 12`. Beyond `K_13`
there is no round constant, and the rule defines nothing. -/
def roundKey (k : Dataset) (h n : Block) : Nat → Block
  | 0 => lps k (xorBlock h n)
  | i + 1 => lps k (xorBlock (roundKey k h n i) (k.c.toList.getD i Block.zeros))

/-- The data path written on its own (rule R82): `working k h n m i` is `E_i`. -/
def working (k : Dataset) (h n m : Block) : Nat → Block
  | 0 => m
  | i + 1 => lps k (xorBlock (roundKey k h n i) (working k h n m i))

end Sys2Proof.Machine
end

