-- ==== Sys2Proof/Machine/State.lean ====
section
/-! DEFINITION. The state: the ten pieces of state the spec gives the block (`Engine`, 10_state.md section 2), and what
the model holds beside them because `step` takes nothing but a state: the block's parameters, the accesses its
environment is still to make, and the answers the environment has received. All of it is plain data. -/

namespace Sys2Proof.Machine

/-! ## The block's own state -/

/-- PHASE (10_state.md rule R11). Encoding 3 is never held, so there is no fourth value. -/
inductive Phase where
  /-- No instance exists yet. -/
  | idle
  /-- The source's Active: accepts ingestion. -/
  | active
  /-- The source's Finalized. -/
  | finalized
  deriving DecidableEq, Repr

/-- The outcome codes held in LASTERR (60_exceptions.md rule R131). -/
inductive OutcomeCode where
  | ok
  /-- INIT with a width other than 256 and 512 (rule R133). -/
  | invalidParameter
  /-- INGEST or FINALIZE when PHASE is not ACTIVE (rule R135). -/
  | invalidState
  /-- A write to CMD of an illegal word (rule R132). -/
  | illegalCommand
  deriving DecidableEq, Repr

/-- The state of the block, one field for each row of the table of 10_state.md section 2. -/
structure Engine where
  /-- PHASE (rule R11). -/
  phase : Phase
  /-- W256: the current instance's digest width is 256 (rule R12). -/
  w256 : Bool
  /-- `h`, the chaining state (rule R13). -/
  h : Block
  /-- `N`, the bit-length accumulator (rule R14). -/
  n : Block
  /-- `SIGMA`, the checksum accumulator (rule R15). -/
  sigma : Block
  /-- BUFD, the storage of the partial-block buffer (rule R16). -/
  bufd : Vector Byte 63
  /-- BUFLEN, how many bytes of BUFD are valid (rule R16). -/
  buflen : BitVec 6
  /-- DATA, the host's data lane register (rule R17). -/
  data : Reg64
  /-- LASTERR, the outcome of the last command (rule R18). -/
  lasterr : OutcomeCode
  /-- STICKY, the error kinds seen since the last clear (rule R19). -/
  sticky : BitVec 3
  deriving DecidableEq, Repr

/-- Every piece of the block's state at its reset value (10_state.md rule R28). -/
def Engine.reset : Engine where
  phase := .idle
  w256 := false
  h := Block.zeros
  n := Block.zeros
  sigma := Block.zeros
  bufd := Vector.replicate 63 0
  buflen := 0
  data := 0
  lasterr := .ok
  sticky := 0

/-! ## The block's environment -/

/-- What the environment does to the block next. -/
inductive BusEvent where
  /-- A host read of `size` bytes at byte address `addr`. -/
  | read (addr size : Nat)
  /-- A host write of `size` bytes at byte address `addr`. -/
  | write (addr size : Nat) (value : Reg64)
  /-- Reset asserted between two accesses (70_reset_and_hazards.md rule R150). -/
  | reset
  /-- A write of `value` to CMD that reset cuts short while it is held (70_reset_and_hazards.md rule R151). -/
  | commandCutByReset (value : Reg64)
  deriving DecidableEq, Repr

/-- What the host receives for one access (20_memory.md rules R32 to R34). -/
inductive Response where
  /-- OKAY to a read, with its data. -/
  | readOkay (data : Reg64)
  /-- OKAY to a write. -/
  | writeOkay
  /-- BUSERR to a read, with its data. -/
  | readBusErr (data : Reg64)
  /-- BUSERR to a write. -/
  | writeBusErr
  /-- The platform's interconnect answered, not the block. -/
  | platform (reply : PlatformReply)
  deriving DecidableEq, Repr

/-! ## The machine -/

/-- The state of the model. `engine` is all the state the spec gives the block; the other fields are the MODEL's own
(log entries 1, 3, 4 and 5). -/
structure State where
  /-- The block (10_state.md section 2). -/
  engine : Engine
  /-- The parameters of the block: `K` and `CORE_BASE`. No step changes them: for `K`, 10_state.md rule
  R20; for `CORE_BASE`, log entry 1. -/
  config : Config
  /-- What the environment will do, first to come first: the accesses of every bus master in the order the block
  performs them (20_memory.md rules R38 and R44), and resets. -/
  pending : List BusEvent
  /-- What the environment has received, oldest first. -/
  responses : List Response
  /-- How many platform answers have been drawn: the index of the next free value. -/
  platformDraws : Nat
  deriving DecidableEq, Repr

/-- The parameters `State.reset` names: the reference dataset, at base address 0. Both are OPEN in the spec, and no
statement rests on either (log entry 2: PRESUMED and DESIGN CHOICE, unsafe). -/
def referenceConfig : Config where
  dataset := referenceDataset
  coreBase := 0

/-- The machine right after reset (70_reset_and_hazards.md rule R150), with no access to come: the block waits for one
(rule R152). -/
def State.reset : State where
  engine := Engine.reset
  config := referenceConfig
  pending := []
  responses := []
  platformDraws := 0

/-- Why the machine stops with a fault: never. The block has no traps (60_exceptions.md rule R130), it is never stuck
(93_implementation_defined.md U14), and a bus error is a response that changes no state (rule R137). The type has no
constructor, so a fault cannot be answered. Nobody raises one; safe. -/
inductive Fault where
  deriving DecidableEq, Repr

/-- Why the model refuses an instruction. -/
inductive Refusal where
  /-- Raised by an arm of `exec` whose instruction has no meaning yet, with the instruction's mnemonic. No arm raises
  it: every command of the table has its meaning. Safe: the model would stop where the hardware goes on. -/
  | notModelled (mnemonic : String)
  deriving DecidableEq, Repr

/-- What a step answers. -/
abbrev Outcome := Host.Outcome State Fault Refusal

end Sys2Proof.Machine
end

