-- ==== Sys2Proof/Machine/Flags.lean ====
section
/-! DEFINITION. The status indications: outcome codes, sticky bits, and the STATUS and DIGEST registers, which are views
of the state (10_state.md rules R24 to R26). The block has no condition codes and no arithmetic flags (rule R26). -/

namespace Sys2Proof.Machine

/-- The encoding of PHASE (10_state.md rule R11). -/
def Phase.code : Phase → BitVec 2
  | .idle => 0
  | .active => 1
  | .finalized => 2

/-- The numeric outcome codes (60_exceptions.md rule R131). -/
def OutcomeCode.code : OutcomeCode → BitVec 2
  | .ok => 0
  | .invalidParameter => 1
  | .invalidState => 2
  | .illegalCommand => 3

/-- The STICKY bit that an outcome sets, as a mask (60_exceptions.md rule R131). -/
def OutcomeCode.stickyBit : OutcomeCode → BitVec 3
  | .ok => 0b000
  | .invalidParameter => 0b001
  | .invalidState => 0b010
  | .illegalCommand => 0b100

/-- STICKY after an outcome: its bit set, the others kept (10_state.md rule R19). -/
def stickyAfter (sticky : BitVec 3) (code : OutcomeCode) : BitVec 3 := sticky ||| code.stickyBit

/-- STATUS (10_state.md rule R24). -/
def statusWord (e : Engine) : Reg64 :=
  e.phase.code.setWidth 64
    ||| (BitVec.ofBool e.w256).setWidth 64 <<< 2
    ||| e.lasterr.code.setWidth 64 <<< 4
    ||| e.sticky.setWidth 64 <<< 8
    ||| e.buflen.setWidth 64 <<< 16

/-- `DIGEST(j)` (10_state.md rule R25). -/
def digestWord (e : Engine) (j : Fin 8) : Reg64 :=
  if e.phase = .finalized ∧ (e.w256 = false ∨ j.val ≤ 3) then intBE8 (wordAt e.h j) else 0

end Sys2Proof.Machine
end

