-- ==== Sys2Proof/Machine/Operands.lean ====
section
/-! DEFINITION. What a command reads and writes as its operands: the DATA lanes of INGEST and the partial-block
buffer. -/

namespace Sys2Proof.Machine

/-- Lane `k` of DATA, `DATA[63 - 8k : 56 - 8k]` (20_memory.md rule R36). -/
def dataLane (data : Reg64) (k : Nat) : Byte := data.extractLsb' (56 - 8 * k) 8

/-- `d[0 .. n-1]`, the message bytes that INGEST with COUNT `n` takes from DATA, in stream order (rule R36). -/
def dataBytes (data : Reg64) (n : Nat) : List Byte := (List.range n).map (dataLane data)

/-- `BUF = BUFD[0 .. BUFLEN-1]` (10_state.md rule R16). -/
def Engine.buf (e : Engine) : List Byte := e.bufd.toList.take e.buflen.toNat

/-- `BUFD[0 .. |B|-1] <- B`; the bytes of BUFD beyond `B` keep what they held (log entry 7, DESIGN CHOICE: the spec
leaves them open, and no rule reads them). -/
@[irreducible] def overwrite (bufd : Vector Byte 63) (bytes : List Byte) : Vector Byte 63 :=
  Vector.ofFn fun i => bytes.getD i.val bufd[i]

/-- `BUFD[0 .. |B|-1] <- B; BUFLEN <- |B|` (43_commands.md rule R102), for a `B` shorter than 64 bytes. -/
def Engine.setBuf (e : Engine) (bytes : List Byte) : Engine :=
  { e with bufd := overwrite e.bufd bytes, buflen := BitVec.ofNat 6 bytes.length }

/-- `BUFLEN <- 0`; BUFD keeps its bytes (43_commands.md rules R101 and R104). -/
def Engine.emptyBuf (e : Engine) : Engine := { e with buflen := 0 }

end Sys2Proof.Machine
end

