-- ==== Sys2Proof/Machine/Ops.lean ====
section
/-! DEFINITION. The operations that several commands share: reporting an outcome (the block's only "trap entry"),
absorbing a block, the final sequence, and the registers as the host reads and writes them. -/

namespace Sys2Proof.Machine

/-! ## Reporting an outcome -/

/-- `report(e)` (60_exceptions.md rule R134): LASTERR takes the code and the code's STICKY bit is set. It is all that an
error does; there is no trap and so no return from one (rules R130 and R140). -/
def Engine.report (e : Engine) (code : OutcomeCode) : Engine :=
  { e with lasterr := code, sticky := stickyAfter e.sticky code }

/-! ## The instance -/

/-- The initial vector of a digest width: `K.IV512` for 512, `K.IV256` for 256 (43_commands.md rule R101). -/
def initialVector (k : Dataset) (width : BitVec 16) : Block := if width = 512 then k.iv512 else k.iv256

/-- INIT's writes for a width of 256 or 512, in the order of 43_commands.md rule R101. -/
def Engine.start (k : Dataset) (width : BitVec 16) (e : Engine) : Engine :=
  { e.emptyBuf with
    w256 := decide (width = 256)
    h := initialVector k width
    n := Block.zeros
    sigma := Block.zeros
    phase := .active }

/-- `ABSORB_BLOCK(m)` (43_commands.md rule R103): `g` reads `N` as it stood before this block's length is added. -/
def Engine.absorbBlock (k : Dataset) (m : Block) (e : Engine) : Engine :=
  { e with
    h := compress k e.n e.h m
    n := add512 e.n blockBits
    sigma := add512 e.sigma m }

/-- The loop of 43_commands.md rule R102: while `B` has 64 bytes or more, absorb the first 64. `fuel` bounds the number
of turns; `B.length` turns are always enough. It answers the engine and the bytes left. -/
def absorbWhileFull (k : Dataset) : (fuel : Nat) → Engine → List Byte → Engine × List Byte
  | 0, e, bytes => (e, bytes)
  | fuel + 1, e, bytes =>
    if 64 ≤ bytes.length then
      absorbWhileFull k fuel (e.absorbBlock k (blockOfBytes (bytes.take 64))) (bytes.drop 64)
    else (e, bytes)

/-- INGEST's work on the bytes `d` (43_commands.md rule R102): `B = BUF ‖ d`, absorb its full blocks, buffer the
rest. -/
def Engine.takeBytes (k : Dataset) (d : List Byte) (e : Engine) : Engine :=
  let bytes := e.buf ++ d
  let absorbed := absorbWhileFull k bytes.length e bytes
  absorbed.1.setBuf absorbed.2

/-- `FINAL_SEQUENCE()` (43_commands.md rule R105), step by step: the padded block under the counter of full blocks only,
then the accumulators, then the total length and the checksum, each under a zero counter. -/
def Engine.finalSequence (k : Dataset) (e : Engine) : Engine :=
  let r := e.buflen.toNat
  let p := pad e.buf
  let h₁ := compress k e.n e.h p
  let n := add512 e.n (tailBits r)
  let sigma := add512 e.sigma p
  let h₂ := compress k Block.zeros h₁ n
  let h₃ := compress k Block.zeros h₂ sigma
  { e with h := h₃, n := n, sigma := sigma }

/-! ## The registers of the window -/

/-- The registers of the window (10_state.md section 3). -/
inductive WindowReg where
  | cmd
  | data
  | status
  | digest (j : Fin 8)
  deriving DecidableEq, Repr

/-- The register at a byte offset of the window, and none for a reserved or misaligned offset (20_memory.md rules R31
and R34). -/
def windowReg (off : Nat) : Option WindowReg :=
  if off % 8 ≠ 0 then none
  else if off = 0x00 then some .cmd
  else if off = 0x08 then some .data
  else if off = 0x10 then some .status
  else if h : 0x40 ≤ off ∧ off < 0x80 then some (.digest ⟨(off - 0x40) / 8, by omega⟩)
  else none

/-- The offset in the window of a byte address, and none outside the window (20_memory.md rule R31). An access is in the
window when its first byte is (log entry 8, DEDUCED). -/
def windowOffset (coreBase addr : Nat) : Option Nat :=
  if coreBase ≤ addr ∧ addr < coreBase + 128 then some (addr - coreBase) else none

/-- The data of an accepted read (20_memory.md rule R32). It is a function of the state alone: a read changes
nothing. -/
def readReg (e : Engine) : WindowReg → Reg64
  | .cmd => 0
  | .data => e.data
  | .status => statusWord e
  | .digest j => digestWord e j

/-- `DATA <- v` (20_memory.md rule R33). -/
def Engine.writeData (e : Engine) (value : Reg64) : Engine := { e with data := value }

/-! ## The state around the block -/

/-- The state with a change of the block's own state. -/
def State.mapEngine (s : State) (f : Engine → Engine) : State := { s with engine := f s.engine }

/-- `report(e)` on the state (60_exceptions.md rule R134). -/
def State.report (s : State) (code : OutcomeCode) : State := s.mapEngine fun e => e.report code

/-- The host receives a response. -/
def State.respond (s : State) (r : Response) : State := { s with responses := s.responses ++ [r] }

/-- The platform, not the block, answers: the next free value (log entry 5). The block's state does not change. -/
def State.respondPlatform (s : State) : State :=
  { s.respond (.platform (Config.platformReply s.platformDraws)) with platformDraws := s.platformDraws + 1 }

end Sys2Proof.Machine
end

