-- ==== Sys2Proof/Machine/StatusControl.lean ====
section
/-! DEFINITION. The status command CLRERR (43_commands.md section 5). -/

namespace Sys2Proof.Machine

/-- `CLRERR` (43_commands.md rule R106): clear STICKY and report OK, in every phase. -/
def execClrerr (s : State) : Outcome :=
  .next ((s.mapEngine fun e => { e with sticky := 0 }).report .ok)

end Sys2Proof.Machine
end

