-- ==== Sys2Proof/Machine/Streaming.lean ====
section
/-! DEFINITION. The commands of the streaming state machine: INIT, INGEST and FINALIZE (43_commands.md). In each, every
check stands before every other write, so that a failing command changes LASTERR and STICKY alone
(60_exceptions.md rule R134). -/

namespace Sys2Proof.Machine

/-- `INIT w` (43_commands.md rule R101): accepted in every phase; a width other than 256 and 512 reports
INVALID_PARAMETER. -/
def execInit (width : BitVec 16) (s : State) : Outcome :=
  if width ≠ 256 ∧ width ≠ 512 then .next (s.report .invalidParameter)
  else .next ((s.mapEngine (Engine.start s.config.dataset width)).report .ok)

/-- `INGEST n` (43_commands.md rule R102). A COUNT above 8, which has no encoding, is ILLEGAL_COMMAND and is checked
first (60_exceptions.md rules R132 and R136; log entry 10, DEDUCED); then the phase. -/
def execIngest (count : BitVec 4) (s : State) : Outcome :=
  if 8 < count.toNat then .next (s.report .illegalCommand)
  else if s.engine.phase ≠ .active then .next (s.report .invalidState)
  else
    .next ((s.mapEngine
      (Engine.takeBytes s.config.dataset (dataBytes s.engine.data count.toNat))).report .ok)

/-- `FINALIZE` (43_commands.md rule R104). -/
def execFinalize (s : State) : Outcome :=
  if s.engine.phase ≠ .active then .next (s.report .invalidState)
  else
    .next ((s.mapEngine fun e =>
      { (e.finalSequence s.config.dataset).emptyBuf with phase := .finalized }).report .ok)

end Sys2Proof.Machine
end

