-- ==== Sys2Proof/Machine/Dispatch.lean ====
section
/-! DEFINITION. One arm per command (43_commands.md rule R100, the case on OPC). -/

namespace Sys2Proof.Machine

def exec (i : Instr) (s : State) : Host.Outcome State Fault Refusal :=
  match i with
  | .init width => Sys2Proof.Machine.execInit width s
  | .ingest count => Sys2Proof.Machine.execIngest count s
  | .finalize => Sys2Proof.Machine.execFinalize s
  | .clrerr => Sys2Proof.Machine.execClrerr s

end Sys2Proof.Machine
end

