-- ==== Sys2Proof/Machine/Bus.lean ====
section
/-! DEFINITION. The bus: how one access of the host, or a reset, acts on the block (20_memory.md, 70_reset_and_hazards.md
section 1). Accesses are performed one at a time, each as one atomic step (rules R6, R30, R37 and R38). -/

namespace Sys2Proof.Machine

/-- The next state that an outcome gives, changed by `f`; a stop stays a stop. -/
def mapNext (f : State → State) : Outcome → Outcome
  | .next s => .next (f s)
  | .fault r => .fault r
  | .refused r => .refused r

/-- `Execute(v)` (43_commands.md rule R100): an illegal word reports ILLEGAL_COMMAND and does nothing else. -/
def executeWord (v : Reg64) (s : State) : Outcome :=
  match decode v with
  | .error _ => .next (s.report .illegalCommand)
  | .ok i => exec i s

/-- `RegRead(off)` for an access of `size` bytes (20_memory.md rules R32 and R34): a read that is not accepted gets
BUSERR with data 0. -/
def readWindow (off size : Nat) (s : State) : Outcome :=
  match (if size = 8 then windowReg off else none) with
  | some r => .next (s.respond (.readOkay (readReg s.engine r)))
  | none => .next (s.respond (.readBusErr 0))

/-- `RegWrite(off, v)` for an access of `size` bytes (20_memory.md rules R33 and R34): CMD executes the word, DATA stores
it, and the response is OKAY whatever the command reports. Every other write gets BUSERR. -/
def writeWindow (off size : Nat) (value : Reg64) (s : State) : Outcome :=
  match (if size = 8 then windowReg off else none) with
  | some .cmd => mapNext (fun t => t.respond .writeOkay) (executeWord value s)
  | some .data => .next ((s.mapEngine fun e => e.writeData value).respond .writeOkay)
  | some .status => .next (s.respond .writeBusErr)
  | some (.digest _) => .next (s.respond .writeBusErr)
  | none => .next (s.respond .writeBusErr)

/-- Reset: every piece of the block's state takes its reset value (70_reset_and_hazards.md rule R150). `K` is no
state and stays (10_state.md rule R20), and so do `CORE_BASE` (log entry 1) and the environment. -/
def resetBlock (s : State) : State := s.mapEngine fun _ => Engine.reset

/-- What one event does. An access outside the window is the platform's to answer, and so is a CMD write that reset cuts
short (20_memory.md rule R31, 70_reset_and_hazards.md rule R151; log entry 11). -/
def perform (event : BusEvent) (s : State) : Outcome :=
  match event with
  | .read addr size =>
    match windowOffset s.config.coreBase addr with
    | some off => readWindow off size s
    | none => .next s.respondPlatform
  | .write addr size value =>
    match windowOffset s.config.coreBase addr with
    | some off => writeWindow off size value s
    | none => .next s.respondPlatform
  | .reset => .next (resetBlock s)
  | .commandCutByReset _ => .next (resetBlock s).respondPlatform

/-- One step: the next event is taken and performed. With no event to come the block is idle and keeps its state
(60_exceptions.md rule R145). -/
def serveNext (s : State) : Outcome :=
  match s.pending with
  | [] => .next s
  | event :: rest => perform event { s with pending := rest }

/-- The host's 64-bit write of a command word to CMD, as the next event. -/
def commandWrite (coreBase : Nat) (v : Reg64) : BusEvent := .write coreBase 8 v

end Sys2Proof.Machine
end

