-- ==== Sys2Proof/Machine/Digest.lean ====
section
/-! DEFINITION. The digest of a message as a pure function (43_commands.md rule R111). It is written from that rule
alone, with none of the streaming operations of Machine/Ops.lean, so that a statement can compare the two. -/

namespace Sys2Proof.Machine

/-- The two digest widths (00_scope.md section 4). -/
inductive DigestWidth where
  | w256
  | w512
  deriving DecidableEq, Repr

/-- A digest width in bits. -/
def DigestWidth.bits : DigestWidth → Nat
  | .w256 => 256
  | .w512 => 512

/-- The running values `h`, `N` and `S` of rule R111. -/
structure HashState where
  h : Block
  n : Block
  sum : Block
  deriving DecidableEq, Repr

/-- The values before the first block. -/
def HashState.initial (k : Dataset) : DigestWidth → HashState
  | .w256 => ⟨k.iv256, Block.zeros, Block.zeros⟩
  | .w512 => ⟨k.iv512, Block.zeros, Block.zeros⟩

/-- The body of the loop: one full block `m`. -/
def HashState.fold (k : Dataset) (x : HashState) (m : Block) : HashState :=
  ⟨compress k x.n x.h m, add512 x.n (vecBE 512), add512 x.sum m⟩

/-- The first `count` blocks of a message folded in. -/
def hashBlocks (k : Dataset) : (count : Nat) → HashState → List Byte → HashState
  | 0, x, _ => x
  | count + 1, x, msg => hashBlocks k count (x.fold k (blockOfBytes (msg.take 64))) (msg.drop 64)

/-- The values after every full block of the message, `⌊L / 64⌋` of them. -/
def hashFull (k : Dataset) (w : DigestWidth) (msg : List Byte) : HashState :=
  hashBlocks k (msg.length / 64) (HashState.initial k w) msg

/-- The tail `t`: the bytes after the last full block, 0 to 63 of them. -/
def hashTail (msg : List Byte) : List Byte := msg.drop (64 * (msg.length / 64))

/-- The final values: the padded tail folded in, the total length and the checksum. -/
def hashFinal (k : Dataset) (w : DigestWidth) (msg : List Byte) : HashState :=
  let x := hashFull k w msg
  let t := hashTail msg
  let p := pad t
  let h := compress k x.n x.h p
  let n := add512 x.n (vecBE (8 * t.length))
  let sum := add512 x.sum p
  ⟨compress k Block.zeros (compress k Block.zeros h n) sum, n, sum⟩

/-- `H_w(M)` (rule R111): the final `h` in full for 512, its first 32 bytes for 256. -/
def hashDigest (k : Dataset) (w : DigestWidth) (msg : List Byte) : List Byte :=
  (hashFinal k w msg).h.toList.take (w.bits / 8)

end Sys2Proof.Machine
end

