-- ==== Sys2Proof/Machine/HostProgram.lean ====
section
/-! DEFINITION. What a host issues: the lines of 30_encoding.md rules R56 and R57 and the pseudo-commands of rules R58 and
R59, each with the accesses it stands for. -/

namespace Sys2Proof.Machine

/-- One line of a host program (30_encoding.md rules R56 to R59). -/
inductive HostLine where
  /-- A command mnemonic with its operands: it stands for `WR CMD, word` (rule R56). -/
  | command (i : Instr)
  /-- `CMD v`: the raw word, illegal words included (rule R56). -/
  | rawCommand (v : Reg64)
  /-- `WR DATA, v` (rule R57). -/
  | writeData (v : Reg64)
  /-- `RD DATA` (rule R57). -/
  | readData
  /-- `RD STATUS` (rule R57). -/
  | readStatus
  /-- `RD DIGESTj` (rule R57). -/
  | readDigest (j : Fin 8)
  /-- `RD off` (rule R57): 8 bytes, a size the rule does not name (log entry 12). -/
  | readRaw (off : Nat)
  /-- `WR off, v` (rule R57): 8 bytes, a size the rule does not name (log entry 12). -/
  | writeRaw (off : Nat) (v : Reg64)
  /-- `ABSORB b` (rule R58). -/
  | absorb (bytes : List Byte)
  /-- `HASH256 b` or `HASH512 b` (rule R59). -/
  | hash (w : DigestWidth) (bytes : List Byte)
  deriving DecidableEq, Repr

/-- The value of DATA that carries a chunk of at most 8 bytes: `int_BE(c ‖ zeros(8 - |c|))` (rule R58). -/
def chunkData (chunk : List Byte) : Reg64 :=
  BitVec.ofNat 64 (natBE (chunk ++ List.replicate (8 - chunk.length) 0))

/-- `WR DATA, v` then `INGEST n`. -/
def ingestEvents (coreBase : Nat) (v : Reg64) (n : BitVec 4) : List BusEvent :=
  [.write (coreBase + 0x08) 8 v, commandWrite coreBase (encode (.ingest n))]

/-- The first `count` chunks of 8 bytes of a byte string; the last one may be shorter. -/
def chunksOf (bytes : List Byte) : (count : Nat) → List (List Byte)
  | 0 => []
  | count + 1 => bytes.take 8 :: chunksOf (bytes.drop 8) count

/-- `ABSORB b` (rule R58): `⌈L/8⌉` pairs of a DATA write and an INGEST. -/
def absorbEvents (coreBase : Nat) (bytes : List Byte) : List BusEvent :=
  (chunksOf bytes ((bytes.length + 7) / 8)).flatMap fun c =>
    ingestEvents coreBase (chunkData c) (BitVec.ofNat 4 c.length)

/-- The INIT of a digest width. -/
def initOf (w : DigestWidth) : Instr := .init (BitVec.ofNat 16 w.bits)

/-- The reads of the digest registers of a width: DIGEST0 to DIGEST3, or to DIGEST7 (rule R59). -/
def digestReads (coreBase : Nat) (w : DigestWidth) : List BusEvent :=
  (List.range (w.bits / 64)).map fun j => .read (coreBase + 0x40 + 8 * j) 8

/-- `HASH256 b` and `HASH512 b` (rule R59). -/
def hashEvents (coreBase : Nat) (w : DigestWidth) (bytes : List Byte) : List BusEvent :=
  [commandWrite coreBase (encode (initOf w))] ++ absorbEvents coreBase bytes ++
    [commandWrite coreBase (encode .finalize)] ++ digestReads coreBase w

/-- The accesses that a line stands for (rules R56 to R59). That the raw accesses `RD off` and `WR off, v` are of 8 bytes is
the model's choice: rule R57 names no size for them (log entry 12, DESIGN CHOICE). -/
def HostLine.events (coreBase : Nat) : HostLine → List BusEvent
  | .command i => [commandWrite coreBase (encode i)]
  | .rawCommand v => [commandWrite coreBase v]
  | .writeData v => [.write (coreBase + 0x08) 8 v]
  | .readData => [.read (coreBase + 0x08) 8]
  | .readStatus => [.read (coreBase + 0x10) 8]
  | .readDigest j => [.read (coreBase + 0x40 + 8 * j.val) 8]
  | .readRaw off => [.read (coreBase + off) 8]
  | .writeRaw off v => [.write (coreBase + off) 8 v]
  | .absorb bytes => absorbEvents coreBase bytes
  | .hash w bytes => hashEvents coreBase w bytes

/-- A host program: its lines in order. -/
def programEvents (coreBase : Nat) (lines : List HostLine) : List BusEvent :=
  lines.flatMap (HostLine.events coreBase)

/-! ## What a host feeds an instance -/

/-- One access with which a host feeds an instance: a DATA write, or an INGEST, which takes its bytes from DATA as the
last write left it (43_commands.md rule R102: two INGESTs may take from one DATA value). -/
inductive Feed where
  | data (v : Reg64)
  | ingest (n : BitVec 4)
  deriving DecidableEq, Repr

/-- The bus access of a feed. -/
def Feed.event (coreBase : Nat) : Feed → BusEvent
  | .data v => .write (coreBase + 0x08) 8 v
  | .ingest n => commandWrite coreBase (encode (.ingest n))

/-- The message bytes that a sequence of feeds delivers to a block whose DATA holds `data` before it. -/
def fedBytes (data : Reg64) : List Feed → List Byte
  | [] => []
  | .data v :: rest => fedBytes v rest
  | .ingest n :: rest => dataBytes data n.toNat ++ fedBytes data rest

/-- The result of a one-shot hash (rule R59): the values read, in read order, each as 8 bytes most significant first. -/
def readBytes (responses : List Response) : List Byte :=
  responses.flatMap fun
    | .readOkay v => (wordBE v).toList
    | .writeOkay => []
    | .readBusErr _ => []
    | .writeBusErr => []
    | .platform _ => []

end Sys2Proof.Machine
end

