-- ==== Sys2Proof/Machine/Assembler.lean ====
section
/-! DEFINITION. The written form of a host program's lines (30_encoding.md rules R56 and R57), as a list of characters.
Rule R58 and rule R59 give no written form to a byte string, so the pseudo-commands have none here (log entry 9). -/

namespace Sys2Proof.Machine

/-- A letter in lower case: mnemonics are case-insensitive (rule R56), and here all of a line is (log entry 9). -/
def lowerChar (c : Char) : Char :=
  if 'A'.toNat ≤ c.toNat ∧ c.toNat ≤ 'Z'.toNat then Char.ofNat (c.toNat + 32) else c

/-- The value of a digit in a base up to 16. -/
def digitValue (base : Nat) (c : Char) : Option Nat :=
  let v :=
    if '0'.toNat ≤ c.toNat ∧ c.toNat ≤ '9'.toNat then some (c.toNat - '0'.toNat)
    else if 'a'.toNat ≤ c.toNat ∧ c.toNat ≤ 'f'.toNat then some (c.toNat - 'a'.toNat + 10)
    else none
  match v with
  | some d => if d < base then some d else none
  | none => none

/-- A string of digits in a base, read onto `acc`. -/
def digitsValue (base : Nat) : (acc : Nat) → List Char → Option Nat
  | acc, [] => some acc
  | acc, c :: cs =>
    match digitValue base c with
    | some d => digitsValue base (base * acc + d) cs
    | none => none

/-- An operand: decimal or 0x-prefixed hexadecimal (rule R56), in lower case. -/
def operandValue : List Char → Option Nat
  | '0' :: 'x' :: d :: ds => digitsValue 16 0 (d :: ds)
  | d :: ds => digitsValue 10 0 (d :: ds)
  | [] => none

/-- A line cut into words at blanks and commas; `word` is the word being read, last character first. -/
def splitWords : (word : List Char) → List Char → List (List Char)
  | word, [] => if word.isEmpty then [] else [word.reverse]
  | word, c :: cs =>
    if c = ' ' ∨ c = ',' ∨ c = '\t' then
      if word.isEmpty then splitWords [] cs else word.reverse :: splitWords [] cs
    else splitWords (lowerChar c :: word) cs

/-- An operand below a bound. -/
def operandBelow (bound : Nat) (word : List Char) : Option Nat :=
  match operandValue word with
  | some v => if v < bound then some v else none
  | none => none

/-- The line that a list of words, in lower case, stands for (rules R56 and R57); a numeric `off` is a raw window
offset. The forms are those of the two rules' tables alone: `WR CMD, v`, `RD CMD` and `WR STATUS, v`, which other places
of the spec write, are none here (log entry 9, DESIGN CHOICE). -/
def lineOfWords : List (List Char) → Option HostLine
  | [['i', 'n', 'i', 't'], w] =>
    (operandBelow (2 ^ 16) w).map fun v => .command (.init (BitVec.ofNat 16 v))
  | [['i', 'n', 'g', 'e', 's', 't'], n] =>
    (operandBelow 9 n).map fun v => .command (.ingest (BitVec.ofNat 4 v))
  | [['f', 'i', 'n', 'a', 'l', 'i', 'z', 'e']] => some (.command .finalize)
  | [['c', 'l', 'r', 'e', 'r', 'r']] => some (.command .clrerr)
  | [['c', 'm', 'd'], v] => (operandBelow (2 ^ 64) v).map fun x => .rawCommand (BitVec.ofNat 64 x)
  | [['w', 'r'], ['d', 'a', 't', 'a'], v] =>
    (operandBelow (2 ^ 64) v).map fun x => .writeData (BitVec.ofNat 64 x)
  | [['w', 'r'], off, v] =>
    match operandValue off, operandBelow (2 ^ 64) v with
    | some o, some x => some (.writeRaw o (BitVec.ofNat 64 x))
    | _, _ => none
  | [['r', 'd'], ['d', 'a', 't', 'a']] => some .readData
  | [['r', 'd'], ['s', 't', 'a', 't', 'u', 's']] => some .readStatus
  | [['r', 'd'], ['d', 'i', 'g', 'e', 's', 't', c]] =>
    match digitValue 10 c with
    | some d => if h : d < 8 then some (.readDigest ⟨d, h⟩) else none
    | none => none
  | [['r', 'd'], off] => (operandValue off).map .readRaw
  | _ => none

/-- One line of a host program, as text. -/
def parseLine (line : List Char) : Option HostLine := lineOfWords (splitWords [] line)

end Sys2Proof.Machine
end

