-- ==== Sys2Proof/Machine/Variants.lean ====
section
/-! DEFINITION. The other forms the spec allows an implementation to compute the same functions in
(41_compression.md rule R85): LW by table lookup, and the adder with an explicit carry. No meaning uses them; statements
say that they equal the functions the meanings use. -/

namespace Sys2Proof.Machine

/-! ## LW by table lookup (40_primitives.md rule R74) -/

/-- The loop of `T_b[y]` over the bits `0 .. count - 1` of `y`: bit `t` selects row `8b + 7 - t`. -/
def tableRows (a : Vector (BitVec 64) 64) (b : Fin 8) (y : Byte) : (count : Nat) → BitVec 64
  | 0 => 0
  | t + 1 =>
    if y.getLsbD t then tableRows a b y t ^^^ a[8 * b.val + (7 - t)] else tableRows a b y t

/-- `T_b[y]`, one entry of the table of byte position `b`. -/
def tableEntry (a : Vector (BitVec 64) 64) (b : Fin 8) (y : Byte) : BitVec 64 := tableRows a b y 8

/-- LW as the XOR of eight table entries. -/
def linearWordByTable (k : Dataset) (w : Word) : Word :=
  wordBE ((List.finRange 8).foldl (fun acc b => acc ^^^ tableEntry k.a b w[b]) 0)

/-! ## The adder with its carry (42_arith_padding.md rules R90 and R91) -/

/-- Addition of two digit strings of one length, most significant digit first, in base `base`, with the carry running
from the last digit to the first. It answers the carry out and the digits. -/
def addDigits (base : Nat) : List Nat → List Nat → Nat × List Nat
  | x :: xs, y :: ys =>
    let rest := addDigits base xs ys
    ((x + y + rest.1) / base, (x + y + rest.1) % base :: rest.2)
  | _, _ => (0, [])

/-- ADD512 byte by byte (rule R90, the second pseudocode); the final carry is discarded. -/
def add512Ripple (a b : Block) : Block :=
  blockOfBytes ((addDigits 256 (a.toList.map BitVec.toNat) (b.toList.map BitVec.toNat)).2.map (BitVec.ofNat 8))

/-- The eight 64-bit limbs of a block: limb `q` is `int_BE8(v[8q .. 8q+7])` (rule R91). -/
def limbs (v : Block) : List Nat := (List.finRange 8).map fun q => (intBE8 (wordAt v q)).toNat

/-- The block of eight limbs, limb 0 first. -/
def blockOfLimbs (ls : List Nat) : Block :=
  blockOfWords (Vector.ofFn fun q => wordBE (BitVec.ofNat 64 (ls.getD q.val 0)))

/-- ADD512 by 64-bit limbs, the carry running from limb 7 to limb 0 (rule R91). -/
def add512Limbs (a b : Block) : Block := blockOfLimbs (addDigits (2 ^ 64) (limbs a) (limbs b)).2

end Sys2Proof.Machine
end

