-- ==== Sys2Proof/Safety.lean ====
section
/-! DEFINITION. What the claims are stated in terms of: the invariant of the machine, and what the host can and cannot
tell of a state. -/

namespace Sys2Proof.Machine

/-- The outcome recorded in LASTERR is also recorded in STICKY (60_exceptions.md rules R131 and R134): reporting an error
sets both, and CLRERR clears both. -/
def Engine.RecordsOutcome (e : Engine) : Prop := e.sticky &&& e.lasterr.stickyBit = e.lasterr.stickyBit

/-- What the phase says of the instance (10_state.md rules R11 to R16). In IDLE no instance was ever started since
reset, so its registers hold their reset values (rule R28). In ACTIVE, `N` counts full blocks only, 512 bits each
(43_commands.md rule R103). In FINALIZED the buffer is empty (rule R104) and `N` counts whole bytes
(42_arith_padding.md rule R96). -/
def Engine.PhaseCoherent (e : Engine) : Prop :=
  match e.phase with
  | .idle =>
    e.w256 = false ∧ e.h = Block.zeros ∧ e.n = Block.zeros ∧ e.sigma = Block.zeros ∧
      e.bufd = Vector.replicate 63 0 ∧ e.buflen = 0
  | .active => intBE e.n % 512 = 0
  | .finalized => e.buflen = 0 ∧ intBE e.n % 8 = 0

/-- The invariant of the machine. -/
structure State.Inv (s : State) : Prop where
  config : s.config.Wf
  records : s.engine.RecordsOutcome
  phase : s.engine.PhaseCoherent

/-- Two states that no host access can tell apart (10_state.md rules R16, R21 (c) and R27): the same environment, the
same host-readable registers, and of the hidden state only what can still reach the host. In ACTIVE that is the
instance; in FINALIZED it is the digest, which the host reads; in IDLE it is nothing. -/
structure State.SameToHost (s t : State) : Prop where
  config : s.config = t.config
  pending : s.pending = t.pending
  responses : s.responses = t.responses
  platformDraws : s.platformDraws = t.platformDraws
  phase : s.engine.phase = t.engine.phase
  w256 : s.engine.w256 = t.engine.w256
  buflen : s.engine.buflen = t.engine.buflen
  data : s.engine.data = t.engine.data
  lasterr : s.engine.lasterr = t.engine.lasterr
  sticky : s.engine.sticky = t.engine.sticky
  activeInstance : s.engine.phase = .active →
    s.engine.h = t.engine.h ∧ s.engine.n = t.engine.n ∧ s.engine.sigma = t.engine.sigma ∧
      s.engine.buf = t.engine.buf
  digest : ∀ j, digestWord s.engine j = digestWord t.engine j

/-- The state every field of which, but for the two that record an outcome, is as before (60_exceptions.md rule
R134). -/
def State.afterError (s : State) (code : OutcomeCode) : State :=
  { s with engine := { s.engine with lasterr := code, sticky := s.engine.sticky ||| code.stickyBit } }

/-- The transition table of 43_commands.md rule R107: the phase after a command and its outcome code, from the phase
before. A COUNT above 8 has no legal word; its column is the table's last. -/
def transition (phase : Phase) : Instr → Phase × OutcomeCode
  | .init width => if width = 256 ∨ width = 512 then (.active, .ok) else (phase, .invalidParameter)
  | .ingest count =>
    if 8 < count.toNat then (phase, .illegalCommand)
    else
      match phase with
      | .idle => (.idle, .invalidState)
      | .active => (.active, .ok)
      | .finalized => (.finalized, .invalidState)
  | .finalize =>
    match phase with
    | .idle => (.idle, .invalidState)
    | .active => (.finalized, .ok)
    | .finalized => (.finalized, .invalidState)
  | .clrerr => (phase, .ok)

/-- The event is a successful INIT: a write to CMD of the word of `INIT 256` or `INIT 512`. -/
def BusEvent.StartsInstance (coreBase : Nat) (event : BusEvent) : Prop :=
  event = commandWrite coreBase 0x0000000001000001 ∨ event = commandWrite coreBase 0x0000000002000001

/-- The event is a reset, between two accesses or during a command. -/
def BusEvent.IsReset (event : BusEvent) : Prop :=
  event = .reset ∨ ∃ v, event = .commandCutByReset v

/-- Nothing but the block has changed: what every command leaves alone. -/
def State.SameEnvironment (s t : State) : Prop :=
  t.config = s.config ∧ t.pending = s.pending ∧ t.responses = s.responses ∧ t.platformDraws = s.platformDraws

end Sys2Proof.Machine
end

