-- ==== Sys2Proof/Certificates/Slice0/Obligations.lean ====
section
/-! DEFINITION. The statements for the provers. -/

open Sys2Proof Sys2Proof.Machine

/-! ## Encoding -/

/-- Decode and encode agree in both directions (30_encoding.md rule R53: "Every legal command has exactly one encoding
for each operand value"). -/
def Obligations.DecodeAndEncodeAgree : Prop :=
  (∀ i : Instr, i.wf = true → decode (encode i) = .ok i) ∧
  (∀ (v : Reg64) (i : Instr), decode v = .ok i → i.wf = true ∧ encode i = v)

/-- The opcode map of rule R53: each row by its mask and match, and the undefined opcodes. -/
def Obligations.OpcodeMapByMaskAndMatch : Prop :=
  (∀ (v : Reg64) (w : BitVec 16),
    decode v = .ok (.init w) ↔ v &&& 0xFFFFFFFF0000FFFF = 0x0000000000000001 ∧ v.extractLsb' 16 16 = w) ∧
  (∀ (v : Reg64) (n : BitVec 4),
    decode v = .ok (.ingest n) ↔
      v &&& 0xFFFFFFFFFFFFF0FF = 0x0000000000000002 ∧ v.extractLsb' 8 4 = n ∧ n.toNat ≤ 8) ∧
  (∀ v : Reg64, decode v = .ok .finalize ↔ v = 0x0000000000000003) ∧
  (∀ v : Reg64, decode v = .ok .clrerr ↔ v = 0x0000000000000004) ∧
  (∀ v : Reg64, (v.extractLsb' 0 4).toNat = 0 ∨ 5 ≤ (v.extractLsb' 0 4).toNat → ∃ err, decode v = .error err)

/-- `legal(v)` of rule R54, written on the bits, is exactly what the decoder accepts; and an INIT of any width is
legal, and one of another width than 256 and 512 fails later with INVALID_PARAMETER. -/
def Obligations.LegalWordsAreTheDecodedOnes : Prop :=
  (∀ v : Reg64,
    ((v.extractLsb' 0 4).toNat ∈ [1, 2, 3, 4] ∧
      v.extractLsb' 4 4 = 0 ∧ v.extractLsb' 12 4 = 0 ∧ v.extractLsb' 32 32 = 0 ∧
      (v.extractLsb' 0 4 = 2 ∨ v.extractLsb' 8 4 = 0) ∧
      (v.extractLsb' 0 4 = 1 ∨ v.extractLsb' 16 16 = 0) ∧
      (v.extractLsb' 0 4 ≠ 2 ∨ (v.extractLsb' 8 4).toNat ≤ 8)) ↔
    ∃ i, decode v = .ok i) ∧
  (∀ (w : BitVec 16) (s : State), legal (encode (.init w)) = true ∧
    (w ≠ 256 → w ≠ 512 → executeWord (encode (.init w)) s = .next (s.afterError .invalidParameter)))

/-- The illegal words of rule R55, and what executing one does (rule R132): LASTERR and STICKY[2], and nothing else. -/
def Obligations.IllegalWordReportsAndDoesNothingElse : Prop :=
  (∀ v : Reg64,
    ((∃ err, decode v = .error err) ↔
      (v.extractLsb' 0 4).toNat = 0 ∨ 5 ≤ (v.extractLsb' 0 4).toNat ∨
      v.extractLsb' 4 4 ≠ 0 ∨ v.extractLsb' 12 4 ≠ 0 ∨ v.extractLsb' 32 32 ≠ 0 ∨
      (v.extractLsb' 0 4 ≠ 2 ∧ v.extractLsb' 8 4 ≠ 0) ∨
      (v.extractLsb' 0 4 ≠ 1 ∧ v.extractLsb' 16 16 ≠ 0) ∨
      (v.extractLsb' 0 4 = 2 ∧ 9 ≤ (v.extractLsb' 8 4).toNat))) ∧
  (∀ (v : Reg64) (s : State) (rest : List BusEvent),
    (∃ err, decode v = .error err) → s.pending = commandWrite s.config.coreBase v :: rest →
    step s = .next { s with
      pending := rest
      engine := { s.engine with lasterr := .illegalCommand, sticky := s.engine.sticky ||| 0b100 }
      responses := s.responses ++ [.writeOkay] })

/-- Words written out from the encodings of rules R50 and R53, decoded and refused. -/
def Obligations.WrittenWordsDecode : Prop :=
  decode 0x0000000002000001 = .ok (.init 512) ∧ decode 0x0000000001000001 = .ok (.init 256) ∧
  decode 0x0000000000800001 = .ok (.init 128) ∧ decode 0x0000000000000302 = .ok (.ingest 3) ∧
  decode 0x0000000000000802 = .ok (.ingest 8) ∧ decode 0x0000000000000003 = .ok .finalize ∧
  decode 0x0000000000000004 = .ok .clrerr ∧ decode 0x0000000000000000 = .error .undefinedOpcode ∧
  decode 0x0000000000000902 = .error .countTooLarge ∧ decode 0x0000000000800011 = .error .reservedBits

/-- The written form of a line is read without regard to letter case. Rule R56 says so of mnemonics; that register names
and the 0x prefix are read so too is the model's choice (log entry 9). -/
def Obligations.AssemblerIgnoresLetterCase : Prop :=
  ∀ line : List Char, parseLine (line.map lowerChar) = parseLine line

/-! ## A step -/

/-- A step whose next event is a write to CMD runs the decoded command, on the state without that event, and answers
OKAY (rules R33 and R100). -/
def Obligations.StepRunsDecodedCommand : Prop :=
  ∀ (s : State) (rest : List BusEvent) (v : Reg64) (i : Instr),
    s.pending = commandWrite s.config.coreBase v :: rest → decode v = .ok i →
    ∃ t, exec i { s with pending := rest } = .next t ∧
      step s = .next { t with responses := t.responses ++ [.writeOkay] }

/-- The machine never stops: no fault, no refusal, and the block is never stuck (93_implementation_defined.md U14;
60_exceptions.md rules R130 and R140). -/
def Obligations.EveryStepAnswersNext : Prop :=
  ∀ s : State, ∃ t, step s = .next t

/-- With no access to come, a step changes nothing (60_exceptions.md rule R145). -/
def Obligations.IdleStepKeepsState : Prop :=
  ∀ s : State, s.pending = [] → step s = .next s

/-! ## The commands -/

/-- INIT (rule R101): what it writes for 256 and 512 in every phase, what it leaves, and its errors. -/
def Obligations.InitStartsInstance : Prop :=
  (∀ (w : BitVec 16) (s : State), w = 256 ∨ w = 512 →
    ∃ t, exec (.init w) s = .next t ∧
      t.engine.w256 = decide (w = 256) ∧
      t.engine.h = (if w = 512 then s.config.dataset.iv512 else s.config.dataset.iv256) ∧
      t.engine.n = Block.zeros ∧ t.engine.sigma = Block.zeros ∧
      t.engine.buflen = 0 ∧ t.engine.buf = [] ∧ t.engine.phase = .active ∧ t.engine.lasterr = .ok ∧
      t.engine.sticky = s.engine.sticky ∧ t.engine.data = s.engine.data ∧ s.SameEnvironment t) ∧
  (∀ (w : BitVec 16) (s : State), w ≠ 256 → w ≠ 512 →
    exec (.init w) s = .next (s.afterError .invalidParameter)) ∧
  (∀ (v : Reg64) (s : State), v.extractLsb' 0 4 = 1 → legal v = false →
    executeWord v s = .next (s.afterError .illegalCommand))

/-- INGEST (rules R102, R103 and R109): the bytes it takes, the one block it may absorb, what it leaves, COUNT 0, and its
errors. -/
def Obligations.IngestTakesBytesOfData : Prop :=
  (∀ (n : BitVec 4) (s : State), n.toNat ≤ 8 → s.engine.phase = .active →
    let b := s.engine.buf ++ (List.range n.toNat).map fun k => s.engine.data.extractLsb' (56 - 8 * k) 8
    let m := blockOfBytes (b.take 64)
    ∃ t, exec (.ingest n) s = .next t ∧
      (b.length < 64 → t.engine.h = s.engine.h ∧ t.engine.n = s.engine.n ∧
        t.engine.sigma = s.engine.sigma ∧ t.engine.buf = b) ∧
      (64 ≤ b.length → t.engine.h = compress s.config.dataset s.engine.n s.engine.h m ∧
        t.engine.n = add512 s.engine.n (vecBE 512) ∧ t.engine.sigma = add512 s.engine.sigma m ∧
        t.engine.buf = b.drop 64) ∧
      t.engine.buflen.toNat = (s.engine.buflen.toNat + n.toNat) % 64 ∧
      t.engine.phase = .active ∧ t.engine.w256 = s.engine.w256 ∧ t.engine.data = s.engine.data ∧
      t.engine.lasterr = .ok ∧ t.engine.sticky = s.engine.sticky ∧ s.SameEnvironment t) ∧
  (∀ s : State, s.engine.phase = .active →
    exec (.ingest 0) s = .next { s with engine := { s.engine with lasterr := .ok } }) ∧
  (∀ (n : BitVec 4) (s : State), n.toNat ≤ 8 → s.engine.phase ≠ .active →
    exec (.ingest n) s = .next (s.afterError .invalidState)) ∧
  (∀ (n : BitVec 4) (s : State), 8 < n.toNat →
    exec (.ingest n) s = .next (s.afterError .illegalCommand)) ∧
  (∀ (v : Reg64) (s : State), v.extractLsb' 0 4 = 2 → legal v = false →
    executeWord v s = .next (s.afterError .illegalCommand))

/-- FINALIZE (rules R104 and R105): the three compressions and the accumulators, what it leaves, and its errors. -/
def Obligations.FinalizeFoldsTailLengthAndChecksum : Prop :=
  (∀ s : State, s.engine.phase = .active →
    let p := pad s.engine.buf
    let n := add512 s.engine.n (vecBE (8 * s.engine.buflen.toNat))
    let sigma := add512 s.engine.sigma p
    let g := compress s.config.dataset
    ∃ t, exec .finalize s = .next t ∧
      t.engine.h = g Block.zeros (g Block.zeros (g s.engine.n s.engine.h p) n) sigma ∧
      t.engine.n = n ∧ t.engine.sigma = sigma ∧
      t.engine.buflen = 0 ∧ t.engine.buf = [] ∧ t.engine.phase = .finalized ∧
      t.engine.w256 = s.engine.w256 ∧ t.engine.data = s.engine.data ∧
      t.engine.lasterr = .ok ∧ t.engine.sticky = s.engine.sticky ∧ s.SameEnvironment t) ∧
  (∀ s : State, s.engine.phase ≠ .active → exec .finalize s = .next (s.afterError .invalidState)) ∧
  (∀ (v : Reg64) (s : State), v.extractLsb' 0 4 = 3 → v ≠ 0x0000000000000003 →
    executeWord v s = .next (s.afterError .illegalCommand))

/-- CLRERR (rule R106): STICKY and LASTERR are cleared in every phase, and nothing else changes. -/
def Obligations.ClrerrClearsErrorRecord : Prop :=
  (∀ s : State, exec .clrerr s =
    .next { s with engine := { s.engine with sticky := 0, lasterr := .ok } }) ∧
  (∀ (v : Reg64) (s : State), v.extractLsb' 0 4 = 4 → v ≠ 0x0000000000000004 →
    executeWord v s = .next (s.afterError .illegalCommand))

/-- The frame of BUFD, byte by byte: only INGEST writes it, and only the bytes that are valid afterwards. That the other
bytes keep what they held is the model's choice (log entry 7), as 10_state.md rule R16 lets them be anything. -/
def Obligations.OnlyIngestWritesBufferStorage : Prop :=
  (∀ (i : Instr) (s : State), (∀ n, i ≠ .ingest n) →
    ∃ t, exec i s = .next t ∧ t.engine.bufd = s.engine.bufd) ∧
  (∀ (n : BitVec 4) (s : State), ∃ t, exec (.ingest n) s = .next t ∧
    ∀ k : Fin 63, t.engine.buflen.toNat ≤ k.val → t.engine.bufd[k] = s.engine.bufd[k])

/-- INVALID_STATE (rule R135): INGEST, of any COUNT that is legal, and FINALIZE when PHASE is not ACTIVE change LASTERR
and STICKY[1] alone. -/
def Obligations.IngestOrFinalizeOutsideActiveIsInvalidState : Prop :=
  ∀ (s : State) (i : Instr), s.engine.phase ≠ .active → i.wf = true →
    (i = .finalize ∨ ∃ n, i = .ingest n) →
    exec i s = .next { s with engine :=
      { s.engine with lasterr := .invalidState, sticky := s.engine.sticky ||| 0b010 } }

/-- The transition table (rule R107), the column of illegal words included. -/
def Obligations.TransitionTable : Prop :=
  (∀ (i : Instr) (s : State), ∃ t, exec i s = .next t ∧
    t.engine.phase = (transition s.engine.phase i).1 ∧ t.engine.lasterr = (transition s.engine.phase i).2 ∧
    (t.engine.lasterr ≠ .ok → t = s.afterError t.engine.lasterr) ∧
    (i = .clrerr → t = { s with engine := { s.engine with sticky := 0, lasterr := .ok } })) ∧
  (∀ (v : Reg64) (s : State), legal v = false →
    executeWord v s = .next (s.afterError .illegalCommand))

/-- Reporting (rules R131 and R134): the numeric codes; each command records its outcome in LASTERR and in STICKY, and
an outcome other than OK changes nothing else; what raises each code. -/
def Obligations.OutcomeIsReportedInLasterrAndSticky : Prop :=
  (OutcomeCode.ok.code = 0 ∧ OutcomeCode.invalidParameter.code = 1 ∧
    OutcomeCode.invalidState.code = 2 ∧ OutcomeCode.illegalCommand.code = 3) ∧
  (∀ (v : Reg64) (s : State), ∃ t, executeWord v s = .next t ∧
    (t.engine.lasterr = .ok → t.engine.sticky = s.engine.sticky ∨ (v = 0x4 ∧ t.engine.sticky = 0)) ∧
    (t.engine.lasterr = .invalidParameter → (∃ w, decode v = .ok (.init w)) ∧
      t = { s with engine := { s.engine with
        lasterr := .invalidParameter, sticky := s.engine.sticky ||| 0b001 } }) ∧
    (t.engine.lasterr = .invalidState → (decode v = .ok .finalize ∨ ∃ n, decode v = .ok (.ingest n)) ∧
      t = { s with engine := { s.engine with
        lasterr := .invalidState, sticky := s.engine.sticky ||| 0b010 } }) ∧
    (t.engine.lasterr = .illegalCommand → legal v = false ∧
      t = { s with engine := { s.engine with
        lasterr := .illegalCommand, sticky := s.engine.sticky ||| 0b100 } }))

/-! ## The register window -/

/-- Accepted reads (rule R32): the data of each register, and no change of state; every other 8-byte read in the window is a
bus error. -/
def Obligations.AcceptedReadReturnsRegister : Prop :=
  (∀ (s : State) (rest : List BusEvent) (off : Nat) (value : Reg64),
    s.pending = .read (s.config.coreBase + off) 8 :: rest →
    ((off = 0x00 ∧ value = 0) ∨ (off = 0x08 ∧ value = s.engine.data) ∨
      (off = 0x10 ∧ value = statusWord s.engine) ∨
      (∃ j : Fin 8, off = 0x40 + 8 * j.val ∧ value = digestWord s.engine j)) →
    step s = .next { s with pending := rest, responses := s.responses ++ [.readOkay value] }) ∧
  (∀ (s : State) (rest : List BusEvent) (off : Nat), off < 0x80 →
    s.pending = .read (s.config.coreBase + off) 8 :: rest →
    off ≠ 0x00 → off ≠ 0x08 → off ≠ 0x10 → (∀ j : Fin 8, off ≠ 0x40 + 8 * j.val) →
    step s = .next { s with pending := rest, responses := s.responses ++ [.readBusErr 0] })

/-- Accepted writes (rule R33): DATA takes the value; CMD executes the word; both answer OKAY, the CMD write whatever
the command reports; every other 8-byte write in the window is a bus error. -/
def Obligations.AcceptedWriteStoresDataOrExecutes : Prop :=
  (∀ (s : State) (rest : List BusEvent) (v : Reg64),
    s.pending = .write (s.config.coreBase + 0x08) 8 v :: rest →
    step s = .next { s with
      pending := rest, engine := { s.engine with data := v }, responses := s.responses ++ [.writeOkay] }) ∧
  (∀ (s : State) (rest : List BusEvent) (v : Reg64),
    s.pending = .write (s.config.coreBase + 0x00) 8 v :: rest →
    ∃ t, executeWord v { s with pending := rest } = .next t ∧
      step s = .next { t with responses := s.responses ++ [.writeOkay] }) ∧
  (∀ (s : State) (rest : List BusEvent) (off : Nat) (v : Reg64), off < 0x80 →
    s.pending = .write (s.config.coreBase + off) 8 v :: rest → off ≠ 0x00 → off ≠ 0x08 →
    step s = .next { s with pending := rest, responses := s.responses ++ [.writeBusErr] })

/-- Bus errors (rules R34 and R137): the access gets BUSERR, a read returns 0, and the block's state does not
change. -/
def Obligations.BusErrorChangesNoState : Prop :=
  (∀ (s : State) (rest : List BusEvent) (off size : Nat), off < 0x80 →
    (size ≠ 8 ∨ off % 8 ≠ 0 ∨ (0x18 ≤ off ∧ off < 0x40)) →
    s.pending = .read (s.config.coreBase + off) size :: rest →
    step s = .next { s with pending := rest, responses := s.responses ++ [.readBusErr 0] }) ∧
  (∀ (s : State) (rest : List BusEvent) (off size : Nat) (v : Reg64), off < 0x80 →
    (size ≠ 8 ∨ off % 8 ≠ 0 ∨ 0x10 ≤ off) →
    s.pending = .write (s.config.coreBase + off) size v :: rest →
    step s = .next { s with pending := rest, responses := s.responses ++ [.writeBusErr] })

/-- An access outside the window (rule R31): the platform answers, once, and the block does not change, whatever the
free answer is. -/
def Obligations.AccessOutsideWindowLeavesBlock : Prop :=
  ∀ (s : State) (rest : List BusEvent) (addr size : Nat) (v : Reg64),
    (addr < s.config.coreBase ∨ s.config.coreBase + 0x80 ≤ addr) →
    (s.pending = .read addr size :: rest ∨ s.pending = .write addr size v :: rest) →
    ∃ (t : State) (reply : PlatformReply), step s = .next t ∧ t.engine = s.engine ∧ t.config = s.config ∧ t.pending = rest ∧
      t.responses = s.responses ++ [.platform reply]

/-- STATUS (rule R24), field by field, the reserved bits included; and it is read at offset 0x10 and cannot be
written. -/
def Obligations.StatusFields : Prop :=
  (∀ (s : State) (rest : List BusEvent), s.pending = .read (s.config.coreBase + 0x10) 8 :: rest →
    step s = .next { s with
      pending := rest, responses := s.responses ++ [.readOkay (statusWord s.engine)] }) ∧
  (∀ (s : State) (rest : List BusEvent) (v : Reg64), s.pending = .write (s.config.coreBase + 0x10) 8 v :: rest →
    step s = .next { s with pending := rest, responses := s.responses ++ [.writeBusErr] }) ∧
  ∀ e : Engine,
    (statusWord e).extractLsb' 0 2 = (match e.phase with | .idle => 0 | .active => 1 | .finalized => 2) ∧
    (statusWord e).extractLsb' 2 1 = BitVec.ofBool e.w256 ∧
    (statusWord e).extractLsb' 3 1 = 0 ∧
    (statusWord e).extractLsb' 4 2 = (match e.lasterr with
      | .ok => 0 | .invalidParameter => 1 | .invalidState => 2 | .illegalCommand => 3) ∧
    (statusWord e).extractLsb' 6 2 = 0 ∧
    (statusWord e).extractLsb' 8 3 = e.sticky ∧
    (statusWord e).extractLsb' 11 5 = 0 ∧
    (statusWord e).extractLsb' 16 6 = e.buflen ∧
    (statusWord e).extractLsb' 22 42 = 0

/-- The DIGEST registers (rule R25), byte by byte: in FINALIZED the bytes of `h`, the first most significant, DIGEST4 to
DIGEST7 zero for a 256-bit instance; zero in every other phase; and they are read at offset 0x40 + 8j and cannot be
written. -/
def Obligations.DigestRegistersShowH : Prop :=
  (∀ (s : State) (rest : List BusEvent) (j : Fin 8),
    s.pending = .read (s.config.coreBase + (0x40 + 8 * j.val)) 8 :: rest →
    step s = .next { s with
      pending := rest, responses := s.responses ++ [.readOkay (digestWord s.engine j)] }) ∧
  (∀ (s : State) (rest : List BusEvent) (j : Fin 8) (v : Reg64),
    s.pending = .write (s.config.coreBase + (0x40 + 8 * j.val)) 8 v :: rest →
    step s = .next { s with pending := rest, responses := s.responses ++ [.writeBusErr] }) ∧
  ∀ (e : Engine) (j i : Fin 8),
    (e.phase = .finalized → (e.w256 = false ∨ j.val ≤ 3) →
      (digestWord e j).extractLsb' (56 - 8 * i.val) 8 = e.h[8 * j.val + i.val]) ∧
    (e.phase = .finalized → e.w256 = true → 4 ≤ j.val → digestWord e j = 0) ∧
    (e.phase ≠ .finalized → digestWord e j = 0)

/-- DATA lanes (rule R36): the first byte in the most significant lane, eight lanes reading as DATA itself, and the
lanes beyond COUNT ignored. -/
def Obligations.DataLaneOrder : Prop :=
  (∀ (v : Reg64) (n k : Nat) (b : Nat), n ≤ 8 → k < n → b < 8 →
    ((dataBytes v n).getD k 0).getLsbD b = v.getLsbD (56 - 8 * k + b)) ∧
  (∀ v : Reg64, natBE (dataBytes v 8) = v.toNat) ∧
  (∀ (v v' : Reg64) (n : Nat), n ≤ 8 →
    (∀ b, 64 - 8 * n ≤ b → b < 64 → v.getLsbD b = v'.getLsbD b) → dataBytes v n = dataBytes v' n)

/-! ## Reset -/

/-- The reset state (rule R28): every piece of the block's state, STATUS and the DIGEST registers. -/
def Obligations.ResetValues : Prop :=
  let e := State.reset.engine
  e.phase = .idle ∧ e.w256 = false ∧ e.h = Block.zeros ∧ e.n = Block.zeros ∧ e.sigma = Block.zeros ∧
    e.bufd = Vector.replicate 63 0 ∧ e.buflen = 0 ∧ e.data = 0 ∧ e.lasterr = .ok ∧ e.sticky = 0 ∧
    statusWord e = 0 ∧ ∀ j, digestWord e j = 0

/-- Reset from every state (rule R150): the block takes its reset values, and the constant dataset stays. -/
def Obligations.ResetTakesEveryStateToResetValues : Prop :=
  ∀ (s : State) (rest : List BusEvent), s.pending = .reset :: rest →
    ∃ t, step s = .next t ∧ t.engine = State.reset.engine ∧ t.config = s.config ∧ t.pending = rest ∧
      t.responses = s.responses ∧ statusWord t.engine = 0 ∧ ∀ j, digestWord t.engine j = 0

/-- Reset during a command (rule R151): the block is in the state it would be in had the command completed just before
the reset, or never been issued, and the held write gets no OKAY of the block. -/
def Obligations.ResetDuringCommandAbandonsIt : Prop :=
  ∀ (s : State) (rest : List BusEvent) (v : Reg64), s.pending = .commandCutByReset v :: rest →
    ∃ (t : State) (reply : PlatformReply) (completed never : State), step s = .next t ∧
      Sys2Proof.core.run 2 { s with pending := commandWrite s.config.coreBase v :: .reset :: rest } =
        .next completed ∧
      Sys2Proof.core.run 1 { s with pending := .reset :: rest } = .next never ∧
      t.engine = completed.engine ∧ t.engine = never.engine ∧ t.engine = State.reset.engine ∧
      t.config = s.config ∧ t.pending = rest ∧ t.responses = s.responses ++ [.platform reply]

/-! ## Invariants and whole-machine rules -/

/-- Every step keeps the invariant. -/
def Obligations.StepKeepsInvariant : Prop :=
  ∀ s t : State, s.Inv → step s = .next t → t.Inv

/-- The reset state meets the invariant. Its `config` clause is about the parameters the model names at reset
(log entry 2), not about the spec's reset values. -/
def Obligations.ResetMeetsInvariant : Prop := State.reset.Inv

/-- Hidden state stays hidden (rules R16, R21 (c) and R27): two states that no host access can tell apart step to two
such states, so no sequence of accesses tells them apart. -/
def Obligations.HiddenStateStaysHidden : Prop :=
  ∀ s t : State, s.SameToHost t → ∃ s' t', step s = .next s' ∧ step t = .next t' ∧ s'.SameToHost t'

/-- No step, reset included, changes the parameters. That the dataset stays is rules R20 and R127; that the window base,
which rule R31 makes a parameter the platform sets, stays too is the model's choice (log entry 1). -/
def Obligations.StepKeepsParameters : Prop :=
  ∀ s t : State, step s = .next t → t.config = s.config

/-- Once finalized, no further mutation (rule R21 (b)): only a successful INIT or a reset changes the instance. -/
def Obligations.FinalizedInstanceIsFrozen : Prop :=
  ∀ (s : State) (event : BusEvent) (rest : List BusEvent),
    s.engine.phase = .finalized → s.pending = event :: rest →
    ¬ event.StartsInstance s.config.coreBase → ¬ event.IsReset →
    ∃ t, step s = .next t ∧ t.engine.phase = .finalized ∧ t.engine.h = s.engine.h ∧
      t.engine.n = s.engine.n ∧ t.engine.sigma = s.engine.sigma ∧ t.engine.bufd = s.engine.bufd ∧
      t.engine.buflen = s.engine.buflen ∧ t.engine.w256 = s.engine.w256 ∧
      ∀ j, digestWord t.engine j = digestWord s.engine j

/-- The width is fixed for the life of the instance (rules R12 and R21 (a)), and only a command or a reset moves PHASE:
an event that is neither a successful INIT nor a reset keeps W256, and one that is no write to CMD keeps every field but
DATA. -/
def Obligations.WidthFixedForLifeOfInstance : Prop :=
  ∀ (s : State) (event : BusEvent) (rest : List BusEvent), s.pending = event :: rest → ¬ event.IsReset →
    ∃ t, step s = .next t ∧
      (¬ event.StartsInstance s.config.coreBase → t.engine.w256 = s.engine.w256) ∧
      ((∀ v, event ≠ commandWrite s.config.coreBase v) →
        t.engine = { s.engine with data := t.engine.data })

/-- STICKY bits stay set until CLRERR or reset (rule R19): any other event keeps every bit that is set. -/
def Obligations.StickyBitsStaySet : Prop :=
  ∀ (s : State) (event : BusEvent) (rest : List BusEvent), s.pending = event :: rest → ¬ event.IsReset →
    event ≠ commandWrite s.config.coreBase 0x0000000000000004 →
    ∃ t, step s = .next t ∧ t.engine.sticky &&& s.engine.sticky = s.engine.sticky

/-- The lifetime of a digest (rule R157): shown in FINALIZED only; readable after a failing INIT, a second FINALIZE and CLRERR; zero after the next
successful INIT and after reset. -/
def Obligations.DigestLifetime : Prop :=
  (∀ (s : State) (j : Fin 8), s.engine.phase ≠ .finalized → digestWord s.engine j = 0) ∧
  (∀ s : State, s.engine.phase = .finalized → ∀ i : Instr,
    ((∃ w, i = .init w ∧ w ≠ 256 ∧ w ≠ 512) ∨ i = .finalize ∨ i = .clrerr) →
    ∃ t, exec i s = .next t ∧ ∀ j, digestWord t.engine j = digestWord s.engine j) ∧
  (∀ (s : State) (w : BitVec 16), (w = 256 ∨ w = 512) →
    ∃ t, exec (.init w) s = .next t ∧ ∀ j, digestWord t.engine j = 0) ∧
  (∀ (s : State) (rest : List BusEvent), s.pending = .reset :: rest →
    ∃ t, step s = .next t ∧ ∀ j, digestWord t.engine j = 0)

/-! ## The transform primitives, for every dataset -/

/-- The big-endian readings of rule R2 and their inverses, for blocks and for words. -/
def Obligations.BigEndianReadings : Prop :=
  (∀ v : Block, intBE v = ∑ i : Fin 64, v[i].toNat * 256 ^ (63 - i.val)) ∧
  (∀ v : Block, intBE v < 2 ^ 512 ∧ vecBE (intBE v) = v) ∧
  (∀ x : Nat, intBE (vecBE x) = x % 2 ^ 512) ∧
  (∀ w : Word, (intBE8 w).toNat = ∑ i : Fin 8, w[i].toNat * 256 ^ (7 - i.val)) ∧
  (∀ w : Word, wordBE (intBE8 w) = w) ∧
  (∀ x : BitVec 64, intBE8 (wordBE x) = x)

/-- S (rule R70): bytewise, and a bijection on blocks for a dataset that meets `WF(K)`. -/
def Obligations.SubstituteIsBytewiseBijection : Prop :=
  (∀ (k : Dataset) (v : Block) (i : Fin 64),
    (substitute k v)[i] = k.pi[v[i].toNat]'v[i].isLt) ∧
  (∀ k : Dataset, k.Wf → Function.Bijective (substitute k))

/-- TAU and P (rules R71 and R72): the transposition, an involution, its fixed points, and the same map from the other
end of the block. -/
def Obligations.PermuteTransposesBytes : Prop :=
  (∀ i : Fin 64, (tau i).val = 8 * (i.val % 8) + i.val / 8 ∧ tau (tau i) = i ∧
    (tau ⟨63 - i.val, by omega⟩).val = 63 - (tau i).val ∧ (tau i = i ↔ i.val % 9 = 0)) ∧
  (∀ (v : Block) (i : Fin 64), (permute v)[i] = v[tau i] ∧ (permute v)[tau i] = v[i]) ∧
  (∀ v : Block, permute (permute v) = v)

/-- LW (rule R73): input bit `j` alone selects row `63 - j`; zero maps to zero; LW is GF(2)-linear. -/
def Obligations.LinearWordSelectsRows : Prop :=
  ∀ k : Dataset,
    (∀ j : Fin 64, linearWord k (wordBE (BitVec.twoPow 64 j.val)) = wordBE k.a[63 - j.val]) ∧
    linearWord k (wordBE 0) = wordBE 0 ∧
    (∀ x y : BitVec 64, intBE8 (linearWord k (wordBE (x ^^^ y))) =
      intBE8 (linearWord k (wordBE x)) ^^^ intBE8 (linearWord k (wordBE y)))

/-- The table-lookup form of LW equals LW (rule R74). -/
def Obligations.TableFormEqualsLinearWord : Prop :=
  ∀ (k : Dataset) (w : Word), linearWordByTable k w = linearWord k w

/-- L (rule R75): LW on each of the eight words, no cross-word mixing, zeros to zeros, equal words to equal words. -/
def Obligations.LinearActsWordwise : Prop :=
  ∀ (k : Dataset) (v : Block),
    (∀ i : Fin 8, wordAt (linear k v) i = linearWord k (wordAt v i)) ∧
    linear k Block.zeros = Block.zeros ∧
    ((∀ i j : Fin 8, wordAt v i = wordAt v j) → ∀ i j : Fin 8, wordAt (linear k v) i = wordAt (linear k v) j)

/-- X and KLPS (rules R76 and R78). -/
def Obligations.XorAndKeyedChainLaws : Prop :=
  (∀ (a b : Block) (i : Fin 64), (xorBlock a b)[i] = a[i] ^^^ b[i]) ∧
  (∀ a b c : Block, xorBlock a a = Block.zeros ∧ xorBlock a Block.zeros = a ∧
    xorBlock a b = xorBlock b a ∧ xorBlock (xorBlock a b) c = xorBlock a (xorBlock b c)) ∧
  (∀ (k : Dataset) (key v : Block), klps k key v = lps k (xorBlock key v) ∧
    klps k key v = klps k v key ∧ klps k key key = lps k Block.zeros)

/-- LPS is `L(P(S(v)))`, and a bijection when `K.A` is invertible over GF(2) (rule R77): when the matrix takes distinct
64-bit values to distinct ones. -/
def Obligations.ChainIsBijectiveWhenMatrixIsInvertible : Prop :=
  (∀ (k : Dataset) (v : Block), lps k v = linear k (permute (substitute k v))) ∧
  (∀ k : Dataset, k.Wf → Function.Injective (fun x : BitVec 64 => linearRows k.a x 64) →
    Function.Bijective (lps k))

/-- The loop of rule R83 computes the key schedule of rule R81 and the data path of rule R82: `K_1 .. K_13` and
`E_1 .. E_12`, each from its own recursion. -/
def Obligations.CompressFollowsKeyScheduleAndDataPath : Prop :=
  ∀ (k : Dataset) (n h m : Block),
    roundKey k h n 0 = lps k (xorBlock h n) ∧
    (∀ i : Fin 12, roundKey k h n (i.val + 1) = lps k (xorBlock (roundKey k h n i.val) k.c[i.val])) ∧
    working k h n m 0 = m ∧
    (∀ i : Fin 12, working k h n m (i.val + 1) = lps k (xorBlock (roundKey k h n i.val) (working k h n m i.val))) ∧
    compress k n h m =
      xorBlock (xorBlock (xorBlock (roundKey k h n 12) (working k h n m 12)) h) m

/-! ## The adder and the padding -/

/-- ADD512 (rule R90): the sum modulo 2^512, the byte-by-byte carry form, and the corner cases. -/
def Obligations.AdderIsModular : Prop :=
  (∀ a b : Block, intBE (add512 a b) = (intBE a + intBE b) % 2 ^ 512) ∧
  (∀ a b : Block, add512Ripple a b = add512 a b) ∧
  (∀ a b : Block, add512 a b = add512 b a ∧ add512 a Block.zeros = a) ∧
  add512 (vecBE (2 ^ 512 - 1)) (vecBE 1) = Block.zeros

/-- The adder by eight 64-bit limbs (rule R91). -/
def Obligations.LimbAdderEqualsAdder : Prop :=
  ∀ a b : Block, add512Limbs a b = add512 a b

/-- PAD (rule R95): the layout for every tail length from 0 to 63, and its integer reading. -/
def Obligations.PaddingLayout : Prop :=
  ∀ t : List Byte, t.length ≤ 63 →
    (pad t).toList = List.replicate (63 - t.length) 0 ++ [1] ++ t ∧
    intBE (pad t) = 2 ^ (8 * t.length) + natBE t

/-! ## Digests -/

/-- A chunk written to DATA as rule R58 says is what INGEST takes from it, and the chunks of ABSORB make up its byte
string. -/
def Obligations.AbsorbDeliversItsBytes : Prop :=
  (∀ c : List Byte, c.length ≤ 8 → dataBytes (chunkData c) c.length = c) ∧
  (∀ b : List Byte, (chunksOf b ((b.length + 7) / 8)).flatten = b ∧
    ∀ c ∈ chunksOf b ((b.length + 7) / 8), 1 ≤ c.length ∧ c.length ≤ 8)

/-- Chunking invariance (rules R108 and R111): INIT, any sequence of DATA writes and INGESTs, two INGESTs from one DATA
value and empty ones included, and FINALIZE leave the final values of the digest function of the delivered bytes, whatever
the state before, and the DIGEST registers hold the digest. -/
def Obligations.DigestIndependentOfChunking : Prop :=
  ∀ (w : DigestWidth) (feeds : List Feed) (s : State) (rest : List BusEvent),
    (∀ n, Feed.ingest n ∈ feeds → n.toNat ≤ 8) →
    s.pending = commandWrite s.config.coreBase (encode (initOf w)) ::
      (feeds.map (Feed.event s.config.coreBase) ++
        commandWrite s.config.coreBase (encode .finalize) :: rest) →
    let msg := fedBytes s.engine.data feeds
    let final := hashFinal s.config.dataset w msg
    ∃ t : State, Sys2Proof.core.run (feeds.length + 2) s = .next t ∧
      t.pending = rest ∧ t.engine.phase = .finalized ∧ t.engine.w256 = decide (w = .w256) ∧
      t.engine.h = final.h ∧ t.engine.n = final.n ∧ t.engine.sigma = final.sum ∧
      t.engine.lasterr = .ok ∧ t.engine.sticky = s.engine.sticky ∧
      hashDigest s.config.dataset w msg = final.h.toList.take (w.bits / 8) ∧
      ∀ j : Fin 8, digestWord t.engine j = if j.val < w.bits / 64 then intBE8 (wordAt final.h j) else 0

/-- The one-shot hash (rules R59 and R111): the values that the program reads, each as 8 bytes most significant first,
are the 64 or 32 bytes of `H_w(M)`, from every state the block may be in. -/
def Obligations.OneShotHashReadsDigest : Prop :=
  ∀ (w : DigestWidth) (msg : List Byte) (s : State) (rest : List BusEvent),
    s.pending = (HostLine.hash w msg).events s.config.coreBase ++ rest →
    ∃ (t : State) (received : List Response),
      Sys2Proof.core.run ((HostLine.hash w msg).events s.config.coreBase).length s = .next t ∧
      t.pending = rest ∧ t.responses = s.responses ++ received ∧
      readBytes received = hashDigest s.config.dataset w msg ∧
      (readBytes received).length = w.bits / 8
end

