-- ==== Sys2Proof/Laws/Bytes.lean ====
section
/-! SUPPORT. The big-endian reading of a byte string, over concatenation. -/

namespace Sys2Proof.Machine

@[simp] theorem natBE_nil : natBE [] = 0 := rfl

@[simp] theorem natBE_singleton (b : Byte) : natBE [b] = b.toNat := by simp [natBE]

/-- The first of two strings is the more significant. -/
theorem natBE_append (a b : List Byte) : natBE (a ++ b) = natBE a * 256 ^ b.length + natBE b := by
  unfold natBE
  rw [List.foldl_append]
  generalize List.foldl (fun acc b => 256 * acc + b.toNat) 0 a = x
  induction b using List.reverseRecOn with
  | nil => simp
  | append_singleton b y ih =>
    simp only [List.foldl_append, List.foldl_cons, List.foldl_nil, ih, List.length_append,
      List.length_singleton]
    ring

theorem natBE_lt (a : List Byte) : natBE a < 256 ^ a.length := by
  induction a using List.reverseRecOn with
  | nil => simp
  | append_singleton b y ih =>
    rw [natBE_append, natBE_singleton, List.length_append]
    simp only [List.length_singleton, pow_succ, pow_zero, one_mul]
    have := y.isLt
    omega

/-- Zero bytes in front do not change the reading. -/
theorem natBE_replicate_zero (n : Nat) : natBE (List.replicate n 0) = 0 := by
  induction n with
  | zero => rfl
  | succ n ih => rw [List.replicate_succ', natBE_append, ih]; simp

end Sys2Proof.Machine
end

