-- ==== Sys2Proof/Laws/State.lean ====
section
/-! SUPPORT. The small lemmas of the state's updates: one for each field an update touches or leaves, true by `rfl`, so
that no proof unfolds a record update. -/

namespace Sys2Proof.Machine

/-! ## Updates of the whole state -/

section
variable (s : State) (f : Engine → Engine) (code : OutcomeCode) (r : Response)

@[simp] theorem State.mapEngine_engine : (s.mapEngine f).engine = f s.engine := rfl
@[simp] theorem State.mapEngine_config : (s.mapEngine f).config = s.config := rfl
@[simp] theorem State.mapEngine_pending : (s.mapEngine f).pending = s.pending := rfl
@[simp] theorem State.mapEngine_responses : (s.mapEngine f).responses = s.responses := rfl
@[simp] theorem State.mapEngine_platformDraws : (s.mapEngine f).platformDraws = s.platformDraws := rfl

@[simp] theorem State.report_engine : (s.report code).engine = s.engine.report code := rfl
@[simp] theorem State.report_config : (s.report code).config = s.config := rfl
@[simp] theorem State.report_pending : (s.report code).pending = s.pending := rfl
@[simp] theorem State.report_responses : (s.report code).responses = s.responses := rfl
@[simp] theorem State.report_platformDraws : (s.report code).platformDraws = s.platformDraws := rfl

@[simp] theorem State.respond_engine : (s.respond r).engine = s.engine := rfl
@[simp] theorem State.respond_config : (s.respond r).config = s.config := rfl
@[simp] theorem State.respond_pending : (s.respond r).pending = s.pending := rfl
@[simp] theorem State.respond_responses : (s.respond r).responses = s.responses ++ [r] := rfl
@[simp] theorem State.respond_platformDraws : (s.respond r).platformDraws = s.platformDraws := rfl

@[simp] theorem State.respondPlatform_engine : s.respondPlatform.engine = s.engine := rfl
@[simp] theorem State.respondPlatform_config : s.respondPlatform.config = s.config := rfl
@[simp] theorem State.respondPlatform_pending : s.respondPlatform.pending = s.pending := rfl
@[simp] theorem State.respondPlatform_responses : s.respondPlatform.responses =
    s.responses ++ [.platform (Config.platformReply s.platformDraws)] := rfl
@[simp] theorem State.respondPlatform_platformDraws :
    s.respondPlatform.platformDraws = s.platformDraws + 1 := rfl

@[simp] theorem resetBlock_engine : (resetBlock s).engine = Engine.reset := rfl
@[simp] theorem resetBlock_config : (resetBlock s).config = s.config := rfl
@[simp] theorem resetBlock_pending : (resetBlock s).pending = s.pending := rfl
@[simp] theorem resetBlock_responses : (resetBlock s).responses = s.responses := rfl
@[simp] theorem resetBlock_platformDraws : (resetBlock s).platformDraws = s.platformDraws := rfl
end

/-! ## Updates of the block -/

section
variable (e : Engine) (code : OutcomeCode) (k : Dataset) (m : Block) (width : BitVec 16)
  (bytes : List Byte) (v : Reg64)

@[simp] theorem Engine.report_phase : (e.report code).phase = e.phase := rfl
@[simp] theorem Engine.report_w256 : (e.report code).w256 = e.w256 := rfl
@[simp] theorem Engine.report_h : (e.report code).h = e.h := rfl
@[simp] theorem Engine.report_n : (e.report code).n = e.n := rfl
@[simp] theorem Engine.report_sigma : (e.report code).sigma = e.sigma := rfl
@[simp] theorem Engine.report_bufd : (e.report code).bufd = e.bufd := rfl
@[simp] theorem Engine.report_buflen : (e.report code).buflen = e.buflen := rfl
@[simp] theorem Engine.report_data : (e.report code).data = e.data := rfl
@[simp] theorem Engine.report_lasterr : (e.report code).lasterr = code := rfl
@[simp] theorem Engine.report_sticky : (e.report code).sticky = stickyAfter e.sticky code := rfl
@[simp] theorem Engine.report_buf : (e.report code).buf = e.buf := rfl
@[simp] theorem stickyAfter_ok (sticky : BitVec 3) : stickyAfter sticky .ok = sticky :=
  BitVec.or_zero

@[simp] theorem Engine.emptyBuf_phase : e.emptyBuf.phase = e.phase := rfl
@[simp] theorem Engine.emptyBuf_w256 : e.emptyBuf.w256 = e.w256 := rfl
@[simp] theorem Engine.emptyBuf_h : e.emptyBuf.h = e.h := rfl
@[simp] theorem Engine.emptyBuf_n : e.emptyBuf.n = e.n := rfl
@[simp] theorem Engine.emptyBuf_sigma : e.emptyBuf.sigma = e.sigma := rfl
@[simp] theorem Engine.emptyBuf_bufd : e.emptyBuf.bufd = e.bufd := rfl
@[simp] theorem Engine.emptyBuf_buflen : e.emptyBuf.buflen = 0 := rfl
@[simp] theorem Engine.emptyBuf_data : e.emptyBuf.data = e.data := rfl
@[simp] theorem Engine.emptyBuf_lasterr : e.emptyBuf.lasterr = e.lasterr := rfl
@[simp] theorem Engine.emptyBuf_sticky : e.emptyBuf.sticky = e.sticky := rfl

@[simp] theorem Engine.setBuf_phase : (e.setBuf bytes).phase = e.phase := rfl
@[simp] theorem Engine.setBuf_w256 : (e.setBuf bytes).w256 = e.w256 := rfl
@[simp] theorem Engine.setBuf_h : (e.setBuf bytes).h = e.h := rfl
@[simp] theorem Engine.setBuf_n : (e.setBuf bytes).n = e.n := rfl
@[simp] theorem Engine.setBuf_sigma : (e.setBuf bytes).sigma = e.sigma := rfl
@[simp] theorem Engine.setBuf_bufd : (e.setBuf bytes).bufd = overwrite e.bufd bytes := rfl
@[simp] theorem Engine.setBuf_buflen : (e.setBuf bytes).buflen = BitVec.ofNat 6 bytes.length := rfl
@[simp] theorem Engine.setBuf_data : (e.setBuf bytes).data = e.data := rfl
@[simp] theorem Engine.setBuf_lasterr : (e.setBuf bytes).lasterr = e.lasterr := rfl
@[simp] theorem Engine.setBuf_sticky : (e.setBuf bytes).sticky = e.sticky := rfl

@[simp] theorem Engine.start_phase : (Engine.start k width e).phase = .active := rfl
@[simp] theorem Engine.start_w256 : (Engine.start k width e).w256 = decide (width = 256) := rfl
@[simp] theorem Engine.start_h : (Engine.start k width e).h = initialVector k width := rfl
@[simp] theorem Engine.start_n : (Engine.start k width e).n = Block.zeros := rfl
@[simp] theorem Engine.start_sigma : (Engine.start k width e).sigma = Block.zeros := rfl
@[simp] theorem Engine.start_bufd : (Engine.start k width e).bufd = e.bufd := rfl
@[simp] theorem Engine.start_buflen : (Engine.start k width e).buflen = 0 := rfl
@[simp] theorem Engine.start_data : (Engine.start k width e).data = e.data := rfl
@[simp] theorem Engine.start_lasterr : (Engine.start k width e).lasterr = e.lasterr := rfl
@[simp] theorem Engine.start_sticky : (Engine.start k width e).sticky = e.sticky := rfl

@[simp] theorem Engine.absorbBlock_phase : (e.absorbBlock k m).phase = e.phase := rfl
@[simp] theorem Engine.absorbBlock_w256 : (e.absorbBlock k m).w256 = e.w256 := rfl
@[simp] theorem Engine.absorbBlock_h : (e.absorbBlock k m).h = compress k e.n e.h m := rfl
@[simp] theorem Engine.absorbBlock_n : (e.absorbBlock k m).n = add512 e.n blockBits := rfl
@[simp] theorem Engine.absorbBlock_sigma : (e.absorbBlock k m).sigma = add512 e.sigma m := rfl
@[simp] theorem Engine.absorbBlock_bufd : (e.absorbBlock k m).bufd = e.bufd := rfl
@[simp] theorem Engine.absorbBlock_buflen : (e.absorbBlock k m).buflen = e.buflen := rfl
@[simp] theorem Engine.absorbBlock_data : (e.absorbBlock k m).data = e.data := rfl
@[simp] theorem Engine.absorbBlock_lasterr : (e.absorbBlock k m).lasterr = e.lasterr := rfl
@[simp] theorem Engine.absorbBlock_sticky : (e.absorbBlock k m).sticky = e.sticky := rfl

@[simp] theorem Engine.finalSequence_phase : (e.finalSequence k).phase = e.phase := rfl
@[simp] theorem Engine.finalSequence_w256 : (e.finalSequence k).w256 = e.w256 := rfl
@[simp] theorem Engine.finalSequence_n :
    (e.finalSequence k).n = add512 e.n (tailBits e.buflen.toNat) := rfl
@[simp] theorem Engine.finalSequence_sigma :
    (e.finalSequence k).sigma = add512 e.sigma (pad e.buf) := rfl
@[simp] theorem Engine.finalSequence_h : (e.finalSequence k).h =
    compress k Block.zeros
      (compress k Block.zeros (compress k e.n e.h (pad e.buf)) (add512 e.n (tailBits e.buflen.toNat)))
      (add512 e.sigma (pad e.buf)) := rfl
@[simp] theorem Engine.finalSequence_bufd : (e.finalSequence k).bufd = e.bufd := rfl
@[simp] theorem Engine.finalSequence_buflen : (e.finalSequence k).buflen = e.buflen := rfl
@[simp] theorem Engine.finalSequence_data : (e.finalSequence k).data = e.data := rfl
@[simp] theorem Engine.finalSequence_lasterr : (e.finalSequence k).lasterr = e.lasterr := rfl
@[simp] theorem Engine.finalSequence_sticky : (e.finalSequence k).sticky = e.sticky := rfl

@[simp] theorem Engine.writeData_data : (e.writeData v).data = v := rfl
@[simp] theorem Engine.writeData_phase : (e.writeData v).phase = e.phase := rfl
@[simp] theorem Engine.writeData_w256 : (e.writeData v).w256 = e.w256 := rfl
@[simp] theorem Engine.writeData_h : (e.writeData v).h = e.h := rfl
@[simp] theorem Engine.writeData_n : (e.writeData v).n = e.n := rfl
@[simp] theorem Engine.writeData_sigma : (e.writeData v).sigma = e.sigma := rfl
@[simp] theorem Engine.writeData_buf : (e.writeData v).buf = e.buf := rfl
@[simp] theorem Engine.writeData_bufd : (e.writeData v).bufd = e.bufd := rfl
@[simp] theorem Engine.writeData_buflen : (e.writeData v).buflen = e.buflen := rfl
@[simp] theorem Engine.writeData_lasterr : (e.writeData v).lasterr = e.lasterr := rfl
@[simp] theorem Engine.writeData_sticky : (e.writeData v).sticky = e.sticky := rfl
end

end Sys2Proof.Machine
end

