-- ==== Sys2Proof/Laws/Ops.lean ====
section
/-! SUPPORT. One lemma per shared operation, saying once what it can do; later proofs cite these and do not unfold the
operations. -/

namespace Sys2Proof.Machine

/-! ## The partial-block buffer (10_state.md rule R16) -/

theorem Engine.buf_length (e : Engine) : e.buf.length = e.buflen.toNat := by
  have h := e.buflen.isLt
  simp only [Engine.buf, List.length_take, Vector.length_toList]
  omega

theorem Engine.buf_length_le (e : Engine) : e.buf.length ≤ 63 := by
  have h := e.buflen.isLt
  rw [e.buf_length]
  omega

@[simp] theorem Engine.buf_emptyBuf (e : Engine) : e.emptyBuf.buf = [] := by
  simp [Engine.buf]

/-- Storing a byte string shorter than a block and reading the buffer back gives that string. -/
theorem Engine.buf_setBuf (e : Engine) (bytes : List Byte) (h : bytes.length ≤ 63) :
    (e.setBuf bytes).buf = bytes := by
  apply List.ext_getElem
  · rw [Engine.buf_length, Engine.setBuf_buflen, BitVec.toNat_ofNat]
    omega
  · intro i h₁ h₂
    simp [Engine.buf, Engine.setBuf, overwrite, List.getElem?_eq_getElem h₂]

/-! ## Absorbing blocks (43_commands.md rules R102 and R109) -/

theorem dataBytes_length (v : Reg64) (n : Nat) : (dataBytes v n).length = n := by
  simp [dataBytes]

theorem absorbWhileFull_short (k : Dataset) (fuel : Nat) (e : Engine) (bytes : List Byte)
    (h : bytes.length < 64) : absorbWhileFull k fuel e bytes = (e, bytes) := by
  cases fuel with
  | zero => rfl
  | succ fuel => simp [absorbWhileFull, Nat.not_le.mpr h]

/-- Fewer than 128 bytes hold at most one full block: the loop runs once. -/
theorem absorbWhileFull_one (k : Dataset) (fuel : Nat) (e : Engine) (bytes : List Byte)
    (h₁ : 64 ≤ bytes.length) (h₂ : bytes.length < 128) :
    absorbWhileFull k (fuel + 1) e bytes =
      (e.absorbBlock k (blockOfBytes (bytes.take 64)), bytes.drop 64) := by
  rw [absorbWhileFull, if_pos h₁]
  exact absorbWhileFull_short k fuel _ _ (by rw [List.length_drop]; omega)

/-- The fields that absorbing blocks leaves alone. -/
theorem absorbWhileFull_keeps (k : Dataset) (fuel : Nat) (e : Engine) (bytes : List Byte) :
    (absorbWhileFull k fuel e bytes).1.phase = e.phase ∧ (absorbWhileFull k fuel e bytes).1.w256 = e.w256 ∧
    (absorbWhileFull k fuel e bytes).1.data = e.data ∧
    (absorbWhileFull k fuel e bytes).1.lasterr = e.lasterr ∧
    (absorbWhileFull k fuel e bytes).1.sticky = e.sticky := by
  induction fuel generalizing e bytes with
  | zero => exact ⟨rfl, rfl, rfl, rfl, rfl⟩
  | succ fuel ih =>
    rw [absorbWhileFull]
    split
    · obtain ⟨h₁, h₂, h₃, h₄, h₅⟩ := ih (e.absorbBlock k (blockOfBytes (bytes.take 64))) (bytes.drop 64)
      exact ⟨h₁, h₂, h₃, h₄, h₅⟩
    · exact ⟨rfl, rfl, rfl, rfl, rfl⟩

section
variable (k : Dataset) (d : List Byte) (e : Engine)

@[simp] theorem Engine.takeBytes_phase : (e.takeBytes k d).phase = e.phase :=
  (absorbWhileFull_keeps k _ e _).1
@[simp] theorem Engine.takeBytes_w256 : (e.takeBytes k d).w256 = e.w256 :=
  (absorbWhileFull_keeps k _ e _).2.1
@[simp] theorem Engine.takeBytes_data : (e.takeBytes k d).data = e.data :=
  (absorbWhileFull_keeps k _ e _).2.2.1
@[simp] theorem Engine.takeBytes_lasterr : (e.takeBytes k d).lasterr = e.lasterr :=
  (absorbWhileFull_keeps k _ e _).2.2.2.1
@[simp] theorem Engine.takeBytes_sticky : (e.takeBytes k d).sticky = e.sticky :=
  (absorbWhileFull_keeps k _ e _).2.2.2.2
end

theorem Engine.takeBytes_short (k : Dataset) (d : List Byte) (e : Engine)
    (h : (e.buf ++ d).length < 64) : e.takeBytes k d = e.setBuf (e.buf ++ d) := by
  simp [Engine.takeBytes, absorbWhileFull_short k _ e _ h]

theorem Engine.takeBytes_full (k : Dataset) (d : List Byte) (e : Engine)
    (h₁ : 64 ≤ (e.buf ++ d).length) (h₂ : (e.buf ++ d).length < 128) :
    e.takeBytes k d =
      (e.absorbBlock k (blockOfBytes ((e.buf ++ d).take 64))).setBuf ((e.buf ++ d).drop 64) := by
  obtain ⟨fuel, hf⟩ : ∃ fuel, (e.buf ++ d).length = fuel + 1 := ⟨_, (Nat.succ_pred (by omega)).symm⟩
  simp only [Engine.takeBytes, hf, absorbWhileFull_one k fuel e _ h₁ h₂]

/-! ## The register window (20_memory.md rules R31 to R34) -/

@[simp] theorem windowOffset_in (coreBase off : Nat) (h : off < 128) :
    windowOffset coreBase (coreBase + off) = some off := by
  simp [windowOffset, h]

@[simp] theorem windowOffset_base (coreBase : Nat) : windowOffset coreBase coreBase = some 0 :=
  windowOffset_in coreBase 0 (by decide)

theorem windowOffset_out (coreBase addr : Nat) (h : addr < coreBase ∨ coreBase + 128 ≤ addr) :
    windowOffset coreBase addr = none := by
  rw [windowOffset, if_neg (by omega)]

theorem windowReg_digest (j : Fin 8) : windowReg (0x40 + 8 * j.val) = some (.digest j) := by
  revert j; decide

/-- Every register a window offset names, with its offset. -/
theorem windowReg_cases {off : Nat} {r : WindowReg} (h : windowReg off = some r) :
    (off = 0x00 ∧ r = .cmd) ∨ (off = 0x08 ∧ r = .data) ∨ (off = 0x10 ∧ r = .status) ∨
      ∃ j : Fin 8, off = 0x40 + 8 * j.val ∧ r = .digest j := by
  unfold windowReg at h
  split at h
  · cases h
  split at h
  · exact .inl ⟨‹_›, by simpa using h.symm⟩
  split at h
  · exact .inr (.inl ⟨‹_›, by simpa using h.symm⟩)
  split at h
  · exact .inr (.inr (.inl ⟨‹_›, by simpa using h.symm⟩))
  split at h
  · rename_i hoff
    refine .inr (.inr (.inr ⟨⟨(off - 0x40) / 8, by omega⟩, ?_, by simpa using h.symm⟩))
    simp only
    omega
  · cases h

/-! ## Commands (43_commands.md rule R100) -/

/-- What INIT can do. -/
theorem execInit_cases (width : BitVec 16) (s : State) :
    ((width = 256 ∨ width = 512) ∧
      execInit width s = .next ((s.mapEngine (Engine.start s.config.dataset width)).report .ok)) ∨
    ((width ≠ 256 ∧ width ≠ 512) ∧ execInit width s = .next (s.report .invalidParameter)) := by
  by_cases h : width ≠ 256 ∧ width ≠ 512
  · exact .inr ⟨h, by rw [execInit, if_pos h]⟩
  · refine .inl ⟨?_, by rw [execInit, if_neg h]⟩
    by_contra hc
    exact h ⟨fun h₁ => hc (.inl h₁), fun h₂ => hc (.inr h₂)⟩

/-- What INGEST can do. -/
theorem execIngest_cases (count : BitVec 4) (s : State) :
    (8 < count.toNat ∧ execIngest count s = .next (s.report .illegalCommand)) ∨
    (count.toNat ≤ 8 ∧ s.engine.phase ≠ .active ∧ execIngest count s = .next (s.report .invalidState)) ∨
    (count.toNat ≤ 8 ∧ s.engine.phase = .active ∧
      execIngest count s = .next ((s.mapEngine
        (Engine.takeBytes s.config.dataset (dataBytes s.engine.data count.toNat))).report .ok)) := by
  by_cases h₁ : 8 < count.toNat
  · exact .inl ⟨h₁, by rw [execIngest, if_pos h₁]⟩
  · by_cases h₂ : s.engine.phase = .active
    · exact .inr (.inr ⟨by omega, h₂, by rw [execIngest, if_neg h₁, if_neg (not_not.mpr h₂)]⟩)
    · exact .inr (.inl ⟨by omega, h₂, by rw [execIngest, if_neg h₁, if_pos h₂]⟩)

/-- What FINALIZE can do. -/
theorem execFinalize_cases (s : State) :
    (s.engine.phase ≠ .active ∧ execFinalize s = .next (s.report .invalidState)) ∨
    (s.engine.phase = .active ∧
      execFinalize s = .next ((s.mapEngine fun e =>
        { (e.finalSequence s.config.dataset).emptyBuf with phase := .finalized }).report .ok)) := by
  by_cases h : s.engine.phase = .active
  · exact .inr ⟨h, by rw [execFinalize, if_neg (not_not.mpr h)]⟩
  · exact .inl ⟨h, by rw [execFinalize, if_pos h]⟩

/-- Every command answers a next state, and it changes nothing but the block. -/
theorem exec_mapEngine (i : Instr) (s : State) : ∃ f, exec i s = .next (s.mapEngine f) := by
  cases i with
  | init width =>
    rcases execInit_cases width s with ⟨_, h⟩ | ⟨_, h⟩
    · exact ⟨fun e => (Engine.start s.config.dataset width e).report .ok, h⟩
    · exact ⟨fun e => e.report .invalidParameter, h⟩
  | ingest count =>
    rcases execIngest_cases count s with ⟨_, h⟩ | ⟨_, _, h⟩ | ⟨_, _, h⟩
    · exact ⟨fun e => e.report .illegalCommand, h⟩
    · exact ⟨fun e => e.report .invalidState, h⟩
    · exact ⟨fun e => (e.takeBytes s.config.dataset (dataBytes s.engine.data count.toNat)).report .ok, h⟩
  | finalize =>
    rcases execFinalize_cases s with ⟨_, h⟩ | ⟨_, h⟩
    · exact ⟨fun e => e.report .invalidState, h⟩
    · exact ⟨fun e => Engine.report
        { (e.finalSequence s.config.dataset).emptyBuf with phase := .finalized } .ok, h⟩
  | clrerr => exact ⟨fun e => Engine.report { e with sticky := 0 } .ok, rfl⟩

/-- What the execution of a word can do: report ILLEGAL_COMMAND, or run the command the word stands for. -/
theorem executeWord_cases (v : Reg64) (s : State) :
    (∃ err, decode v = .error err ∧ executeWord v s = .next (s.report .illegalCommand)) ∨
    (∃ i, decode v = .ok i ∧ executeWord v s = exec i s) := by
  cases h : decode v with
  | error err => exact .inl ⟨err, rfl, by rw [executeWord, h]⟩
  | ok i => exact .inr ⟨i, rfl, by rw [executeWord, h]⟩

/-- Every word answers a next state, and it changes nothing but the block. -/
theorem executeWord_mapEngine (v : Reg64) (s : State) : ∃ f, executeWord v s = .next (s.mapEngine f) := by
  rcases executeWord_cases v s with ⟨_, _, h⟩ | ⟨i, _, h⟩
  · exact ⟨fun e => e.report .illegalCommand, h⟩
  · rw [h]
    exact exec_mapEngine i s

/-! ## Bus accesses -/

/-- What a read in the window can do: it answers, and changes nothing else. -/
theorem readWindow_cases (off size : Nat) (s : State) :
    (∃ r, size = 8 ∧ windowReg off = some r ∧
      readWindow off size s = .next (s.respond (.readOkay (readReg s.engine r)))) ∨
    ((size ≠ 8 ∨ windowReg off = none) ∧ readWindow off size s = .next (s.respond (.readBusErr 0))) := by
  by_cases h : size = 8
  · cases hr : windowReg off with
    | none => exact .inr ⟨.inr rfl, by simp [readWindow, h, hr]⟩
    | some r => exact .inl ⟨r, h, rfl, by simp [readWindow, h, hr]⟩
  · exact .inr ⟨.inl h, by simp [readWindow, h]⟩

/-- What a write in the window can do: execute a word, store DATA, or get BUSERR and change nothing. -/
theorem writeWindow_cases (off size : Nat) (v : Reg64) (s : State) :
    (size = 8 ∧ off = 0x00 ∧ ∃ t, executeWord v s = .next t ∧
      writeWindow off size v s = .next (t.respond .writeOkay)) ∨
    (size = 8 ∧ off = 0x08 ∧
      writeWindow off size v s = .next ((s.mapEngine fun e => e.writeData v).respond .writeOkay)) ∨
    ((size ≠ 8 ∨ (off ≠ 0x00 ∧ off ≠ 0x08)) ∧
      writeWindow off size v s = .next (s.respond .writeBusErr)) := by
  by_cases h : size = 8
  · by_cases h₀ : off = 0x00
    · obtain ⟨f, hf⟩ := executeWord_mapEngine v s
      have hw : windowReg 0 = some .cmd := by decide
      exact .inl ⟨h, h₀, _, hf, by simp [writeWindow, h, h₀, hw, hf, mapNext]⟩
    · by_cases h₈ : off = 0x08
      · have hw : windowReg 8 = some .data := by decide
        exact .inr (.inl ⟨h, h₈, by simp [writeWindow, h, h₈, hw]⟩)
      · refine .inr (.inr ⟨.inr ⟨h₀, h₈⟩, ?_⟩)
        cases hr : windowReg off with
        | none => simp [writeWindow, h, hr]
        | some r =>
          rcases windowReg_cases hr with ⟨h', _⟩ | ⟨h', _⟩ | ⟨_, rfl⟩ | ⟨j, _, rfl⟩
          · exact absurd h' h₀
          · exact absurd h' h₈
          · simp [writeWindow, h, hr]
          · simp [writeWindow, h, hr]
  · exact .inr (.inr ⟨.inl h, by simp [writeWindow, h]⟩)

/-- What one event can do to the block and to its environment. -/
theorem perform_cases (event : BusEvent) (s : State) :
    (∃ r, perform event s = .next (s.respond r)) ∨
    (perform event s = .next s.respondPlatform) ∨
    (∃ v, perform event s = .next ((s.mapEngine fun e => e.writeData v).respond .writeOkay)) ∨
    (∃ v t, event = commandWrite s.config.coreBase v ∧ executeWord v s = .next t ∧
      perform event s = .next (t.respond .writeOkay)) ∨
    (event = .reset ∧ perform event s = .next (resetBlock s)) ∨
    (∃ v, event = .commandCutByReset v ∧ perform event s = .next (resetBlock s).respondPlatform) := by
  cases event with
  | read addr size =>
    cases hw : windowOffset s.config.coreBase addr with
    | none => exact .inr (.inl (by simp [perform, hw]))
    | some off =>
      rcases readWindow_cases off size s with ⟨r, _, _, h⟩ | ⟨_, h⟩ <;>
        exact .inl ⟨_, by simp [perform, hw, h]; rfl⟩
  | write addr size v =>
    cases hw : windowOffset s.config.coreBase addr with
    | none => exact .inr (.inl (by simp [perform, hw]))
    | some off =>
      rcases writeWindow_cases off size v s with ⟨hs, h₀, t, ht, h⟩ | ⟨_, _, h⟩ | ⟨_, h⟩
      · refine .inr (.inr (.inr (.inl ⟨v, t, ?_, ht, by simp [perform, hw, h]⟩)))
        have : addr = s.config.coreBase := by
          unfold windowOffset at hw
          split at hw <;> simp at hw
          omega
        rw [this, hs]
        rfl
      · exact .inr (.inr (.inl ⟨v, by simp [perform, hw, h]⟩))
      · exact .inl ⟨_, by simp [perform, hw, h]; rfl⟩
  | reset => exact .inr (.inr (.inr (.inr (.inl ⟨rfl, rfl⟩))))
  | commandCutByReset v => exact .inr (.inr (.inr (.inr (.inr ⟨v, rfl, rfl⟩))))

theorem serveNext_idle (s : State) (h : s.pending = []) : serveNext s = .next s := by
  rw [serveNext, h]

theorem serveNext_event (s : State) (event : BusEvent) (rest : List BusEvent)
    (h : s.pending = event :: rest) : serveNext s = perform event { s with pending := rest } := by
  rw [serveNext, h]

end Sys2Proof.Machine
end

