-- ==== Sys2Proof/Laws/PerInstr.lean ====
section
/-! SUPPORT. Statements about every command as syntax, one lemma per constructor. Family `EncodedLegal`: the word of a
well-formed command passes the legality check of 30_encoding.md rule R54. -/

namespace Sys2Proof.Laws.EncodedLegal

/-- The word that encodes a well-formed command is legal. -/
def Statement (i : Instr) : Prop := i.wf = true → legal (encode i) = true

section
variable (width : BitVec 16) (count opcode : BitVec 4)

/-- Every bit of a command word, by the field it lies in (30_encoding.md rule R50). -/
theorem getLsbD_commandWord (j : Nat) : (commandWord width count opcode).getLsbD j =
    if j < 4 then opcode.getLsbD j
    else if 8 ≤ j ∧ j < 12 then count.getLsbD (j - 8)
    else if 16 ≤ j ∧ j < 32 then width.getLsbD (j - 16) else false := by
  have ho : 4 ≤ j → opcode.getLsbD j = false := fun h => BitVec.getLsbD_of_ge _ _ h
  have hc : 12 ≤ j → count.getLsbD (j - 8) = false := fun h => BitVec.getLsbD_of_ge _ _ (by omega)
  have hw : 32 ≤ j → width.getLsbD (j - 16) = false := fun h => BitVec.getLsbD_of_ge _ _ (by omega)
  rw [commandWord, BitVec.getLsbD_or, BitVec.getLsbD_or, BitVec.getLsbD_shiftLeft,
    BitVec.getLsbD_shiftLeft, BitVec.getLsbD_setWidth, BitVec.getLsbD_setWidth, BitVec.getLsbD_setWidth]
  by_cases h₁ : j < 4
  · simp [h₁, show j < 64 by omega, show j < 8 by omega, show j < 16 by omega]
  by_cases h₂ : 8 ≤ j ∧ j < 12
  · simp [h₁, h₂, ho (by omega), show j < 64 by omega, show ¬ j < 8 by omega, show j < 16 by omega,
      show j - 8 < 64 by omega]
  by_cases h₃ : 16 ≤ j ∧ j < 32
  · simp [h₁, h₂, h₃, ho (by omega), hc (by omega), show j < 64 by omega, show ¬ j < 16 by omega,
      show j - 16 < 64 by omega]
  · simp only [h₁, h₂, h₃, ho (by omega), if_false, Bool.and_false, Bool.false_or]
    by_cases h₄ : j < 12
    · simp [show j < 8 by omega, show j < 16 by omega]
    · simp only [hc (by omega), Bool.and_false, Bool.false_or]
      by_cases h₅ : j < 16
      · simp [h₅]
      · simp [hw (by omega)]

theorem opc_commandWord : opc (commandWord width count opcode) = opcode := by
  ext i hi
  simp [opc, getLsbD_commandWord, hi]

theorem rsv0_commandWord : rsv0 (commandWord width count opcode) = 0 := by
  ext i hi
  simp [rsv0, getLsbD_commandWord, show ¬ 8 ≤ 4 + i by omega, show ¬ 16 ≤ 4 + i by omega]

theorem countField_commandWord : countField (commandWord width count opcode) = count := by
  ext i hi
  simp [countField, getLsbD_commandWord, show ¬ 8 + i < 4 by omega, show 8 + i < 12 by omega,
    BitVec.getLsbD_eq_getElem hi]

theorem rsv1_commandWord : rsv1 (commandWord width count opcode) = 0 := by
  ext i hi
  simp [rsv1, getLsbD_commandWord, show ¬ 12 + i < 4 by omega, show ¬ 12 + i < 12 by omega,
    show ¬ 16 ≤ 12 + i by omega]

theorem widthField_commandWord : widthField (commandWord width count opcode) = width := by
  ext i hi
  simp [widthField, getLsbD_commandWord, show ¬ 16 + i < 4 by omega, show ¬ 16 + i < 12 by omega,
    show 16 + i < 32 by omega, BitVec.getLsbD_eq_getElem hi]

theorem rsv2_commandWord : rsv2 (commandWord width count opcode) = 0 := by
  ext i hi
  simp [rsv2, getLsbD_commandWord, show ¬ 32 + i < 4 by omega, show ¬ 32 + i < 12 by omega,
    show ¬ 32 + i < 32 by omega]
end

theorem init (width : BitVec 16) : Statement (.init width) := by
  intro _
  simp only [legal, encode, opc_commandWord, rsv0_commandWord, countField_commandWord, rsv1_commandWord,
    widthField_commandWord, rsv2_commandWord]
  rfl

theorem ingest (count : BitVec 4) : Statement (.ingest count) := by
  intro h
  simp only [legal, encode, opc_commandWord, rsv0_commandWord, countField_commandWord, rsv1_commandWord,
    widthField_commandWord, rsv2_commandWord]
  simpa [Instr.wf, BitVec.le_def] using h

theorem finalize : Statement .finalize := by
  intro _
  decide

theorem clrerr : Statement .clrerr := by
  intro _
  decide

end Sys2Proof.Laws.EncodedLegal
end

