-- ==== Sys2Proof/Laws/Run.lean ====
section
/-! SUPPORT. Steps and runs: the lemmas that take a run apart event by event. -/

namespace Sys2Proof.Machine

theorem step_eq_serveNext (s : State) : step s = serveNext s := rfl

theorem step_idle (s : State) (h : s.pending = []) : step s = .next s := serveNext_idle s h

theorem step_event (s : State) (event : BusEvent) (rest : List BusEvent) (h : s.pending = event :: rest) :
    step s = perform event { s with pending := rest } := serveNext_event s event rest h

/-- A write to CMD executes the word and answers OKAY. -/
theorem perform_commandWrite (v : Reg64) (s : State) :
    perform (commandWrite s.config.coreBase v) s =
      mapNext (fun t => t.respond .writeOkay) (executeWord v s) := by
  simp [perform, commandWrite, writeWindow, show windowReg 0 = some .cmd by decide]

theorem step_commandWrite (s t : State) (v : Reg64) (rest : List BusEvent)
    (hp : s.pending = commandWrite s.config.coreBase v :: rest)
    (h : executeWord v { s with pending := rest } = .next t) : step s = .next (t.respond .writeOkay) := by
  rw [step_event s _ _ hp]
  exact (perform_commandWrite v { s with pending := rest }).trans (by rw [h]; rfl)

/-- A write of the word of a well-formed command runs the command. -/
theorem executeWord_of_decode (v : Reg64) (i : Instr) (s : State) (h : decode v = .ok i) :
    executeWord v s = exec i s := by
  rw [executeWord, h]

/-- A write to DATA stores the value. -/
theorem step_writeData (s : State) (v : Reg64) (rest : List BusEvent)
    (hp : s.pending = .write (s.config.coreBase + 0x08) 8 v :: rest) :
    step s = .next ((({ s with pending := rest } : State).mapEngine fun e => e.writeData v).respond .writeOkay) := by
  rw [step_event s _ _ hp]
  simp [perform, writeWindow, show windowReg 8 = some .data by decide]

@[simp] theorem core_run_zero (s : State) : Sys2Proof.core.run 0 s = .next s := rfl

theorem core_run_succ (count : Nat) (s t : State) (h : step s = .next t) :
    Sys2Proof.core.run (count + 1) s = Sys2Proof.core.run count t := by
  have h' : Sys2Proof.core.step s = .next t := h
  simp only [Host.Core.run, h']

/-- A run in two parts. -/
theorem core_run_add (m n : Nat) (s t : State) (h : Sys2Proof.core.run m s = .next t) :
    Sys2Proof.core.run (m + n) s = Sys2Proof.core.run n t := by
  induction m generalizing s with
  | zero =>
    cases h
    rw [Nat.zero_add]
  | succ m ih =>
    rw [Nat.add_right_comm]
    cases hs : step s with
    | next u =>
      rw [core_run_succ _ _ _ hs]
      exact ih u ((core_run_succ _ _ _ hs).symm.trans h)
    | fault r => cases r
    | refused r =>
      have h' : Sys2Proof.core.step s = .refused r := hs
      simp [Host.Core.run, h'] at h

end Sys2Proof.Machine
end

