-- ==== Sys2Proof/Machine/Conformance.lean ====
section
/-! DEFINITION. Conformance of a dataset (44_constant_dataset.md rule R126). The fixtures are those of
95_test_vectors.md section 1.7, which the spec gives from general knowledge (log entry 2, PRESUMED). `WF(K)` does not
imply conformance, and no meaning asks for it. -/

namespace Sys2Proof.Machine

/-- A byte string of a length, from its big-endian reading. -/
def bytesBE (length x : Nat) : List Byte :=
  (List.range length).map fun i => BitVec.ofNat 8 (x / 256 ^ (length - 1 - i))

/-- One published example: a message, in delivery order, and its digest. -/
structure Fixture where
  width : DigestWidth
  message : List Byte
  digest : List Byte
  deriving DecidableEq, Repr

/-- M1, 63 bytes. -/
def fixtureM1 : List Byte :=
  bytesBE 63 0x323130393837363534333231303938373635343332313039383736353433323130393837363534333231303938373635343332313039383736353433323130

/-- M2, 72 bytes as RFC 6986 writes it. -/
def fixtureM2Written : List Byte :=
  bytesBE 72 0xfbe2e5f0eee3c820fbeafaebef20fffbf0e1e0f0f520e0ed20e8ece0ebe5f0f2f120fff0eeec20f120faf2fee5e2202ce8f6f3ede220e8e6eee1e8f0f2d1202ce8f0f2e5e220e5d1

/-- M2 in delivery order: bytes 8 to 71 as written, then bytes 0 to 7. -/
def fixtureM2 : List Byte := fixtureM2Written.drop 8 ++ fixtureM2Written.take 8

/-- The four published digests. -/
def conformanceFixtures : List Fixture :=
  [⟨.w512, fixtureM1, bytesBE 64 0x486f64c1917879417fef082b3381a4e211c324f074654c38823a7b76f830ad00fa1fbae42b1285c0352f227524bc9ab16254288dd6863dccd5b9f54a1ad0541b⟩] ++
  [⟨.w256, fixtureM1, bytesBE 32 0x00557be5e584fd52a449b16b0251d05d27f94ab76cbaa6da890b59d8ef1e159d⟩] ++
  [⟨.w512, fixtureM2, bytesBE 64 0x28fbc9bada033b1460642bdcddb90c3fb3e56c497ccd0f62b8a2ad4935e85f037613966de4ee00531ae60f3b5a47f8dae06915d5f2f194996fcabf2622e6881e⟩] ++
  [⟨.w256, fixtureM2, bytesBE 32 0x508f7e553c06501d749a66fc28c6cac0b005746d97537fa85d9e40904efed29d⟩]

/-- A dataset that gives the published digest of each example message at each width (rule R126). -/
abbrev Conformant (k : Dataset) : Prop :=
  ∀ f ∈ conformanceFixtures, hashDigest k f.width f.message = f.digest

end Sys2Proof.Machine
end

