-- ==== Sys2Proof/Tests/Slice0.lean ====
section
/-! SUPPORT. Tests. Expected values are those of spec/95_test_vectors.md (the section is named at each group) or of the
encodings of spec/30_encoding.md; none was taken from the model. The last part gives, for each statement that has
hypotheses, a state and operands that meet them. -/

namespace Sys2Proof.Tests

open Sys2Proof Sys2Proof.Machine

/-! ## Well-formedness: each check refuses an ill-formed term -/

theorem smoke_ingest_nine_refused : (Instr.ingest 9).wf = false := by decide
theorem smoke_ingest_eight_accepted : (Instr.ingest 8).wf = true := by decide

theorem smoke_reference_dataset_wf : referenceDataset.Wf := by decide +kernel

/-- A map that takes every byte to 0 is no permutation: it misses 1. -/
theorem smoke_constant_map_refused : ¬ { referenceDataset with pi := Vector.replicate 256 0 }.Wf :=
  fun h => absurd (h.1.mem_iff.mpr (show (1 : Byte) ∈ _ by decide +kernel)) (by decide +kernel)

theorem smoke_nonzero_iv512_refused : ¬ { referenceDataset with iv512 := Vector.replicate 64 1 }.Wf :=
  fun h => absurd h.2.1 (by decide +kernel)

theorem smoke_zero_iv256_refused : ¬ { referenceDataset with iv256 := Block.zeros }.Wf :=
  fun h => h.2.2 rfl

theorem smoke_misaligned_base_refused : ¬ { referenceConfig with coreBase := 64 }.Wf :=
  fun h => absurd h.2 (by decide +kernel)

/-! ## Decoding: words written out bit by bit from the rows of opcode_table.json -/

/-- INIT 512: WIDTH = 0b0000001000000000, OPC = 0b0001. -/
theorem test_decode_init : decode
    0b0000000000000000000000000000000000000010000000000000000000000001 = .ok (.init 512) := by decide

/-- INIT with the first and the last bit of WIDTH set. -/
theorem test_decode_init_width_ends : decode
    0b0000000000000000000000000000000010000000000000010000000000000001 = .ok (.init 0x8001) := by decide

/-- INGEST 5: COUNT = 0b0101, OPC = 0b0010. -/
theorem test_decode_ingest : decode
    0b0000000000000000000000000000000000000000000000000000010100000010 = .ok (.ingest 5) := by decide

theorem test_decode_ingest_eight : decode
    0b0000000000000000000000000000000000000000000000000000100000000010 = .ok (.ingest 8) := by decide

theorem test_decode_finalize : decode
    0b0000000000000000000000000000000000000000000000000000000000000011 = .ok .finalize := by decide

theorem test_decode_clrerr : decode
    0b0000000000000000000000000000000000000000000000000000000000000100 = .ok .clrerr := by decide

/-- The table's INGEST row, by its own bit numbering. -/
theorem test_decodeTableWord : decodeTableWord 64 0x302 = some (.ingest 3) := by decide

/-- Illegal words of section 2.7, each by its own reason. -/
theorem test_decode_illegal :
    decode 0x0000000000000005 = .error .undefinedOpcode ∧ decode 0x8000000000000003 = .error .reservedBits ∧
    decode 0x0000000000001000 = .error .reservedBits ∧ decode 0x0000000000000103 = .error .strayCount ∧
    decode 0x0000000002000102 = .error .strayWidth ∧ decode 0x0000000000000F02 = .error .countTooLarge := by
  decide

/-- The words of rule R56. -/
theorem test_encode : encode (.init 256) = 0x0000000001000001 ∧ encode (.ingest 7) = 0x0000000000000702 ∧
    encode .finalize = 0x0000000000000003 ∧ encode .clrerr = 0x0000000000000004 := by decide

/-! ## Commands: STATUS after one step (section 2.7) -/

/-- The block after `INIT 512`, with `len` bytes buffered, all of them 0x11 (section 2.8, cases 7 and 8). -/
def activeEngine (len : BitVec 6) : Engine :=
  { Engine.reset with phase := .active, bufd := Vector.replicate 63 0x11, buflen := len, data := 0x1111111111111111 }

/-- The block after `INIT 512 ; FINALIZE`, but for the hidden registers. -/
def finalEngine : Engine := { Engine.reset with phase := .finalized, h := Vector.replicate 64 0xab }

/-- A state with a block and the accesses to come. -/
def stateWith (e : Engine) (pending : List BusEvent) : State :=
  { State.reset with engine := e, pending := pending }

theorem stateWith_pending (e : Engine) (pending : List BusEvent) : (stateWith e pending).pending = pending := rfl

theorem stateWith_coreBase (e : Engine) (pending : List BusEvent) : (stateWith e pending).config.coreBase = 0 := rfl

/-- What a step leaves, by a function of the next state; a stop gives `none`. -/
def after {α : Type} (f : State → α) (o : Outcome) : Option α :=
  match o with
  | .next t => some (f t)
  | .fault _ => none
  | .refused _ => none

/-- STATUS after the step that runs a command word. -/
def statusAfter (e : Engine) (word : Nat) : Option Reg64 :=
  after (fun t => statusWord t.engine) (step ((stateWith e []).withFetchWord 64 word))

theorem test_init_512 : statusAfter Engine.reset 0x2000001 = some 0x1 := by decide +kernel
theorem test_init_128_in_final : statusAfter finalEngine 0x800001 = some 0x112 := by decide +kernel
/-- Section 2.8, cases 7 and 8: 60 bytes buffered, then 8 more. -/
theorem test_ingest_absorbs : statusAfter (activeEngine 60) 0x802 = some 0x40001 := by decide +kernel
theorem test_ingest_in_reset : statusAfter Engine.reset 0x2 = some 0x220 := by decide +kernel
theorem test_finalize_in_active : statusAfter (activeEngine 0) 0x3 = some 0x2 := by decide +kernel
theorem test_finalize_twice : statusAfter finalEngine 0x3 = some 0x222 := by decide +kernel
/-- Section 2.10: `INIT 128 ; CLRERR`. -/
theorem test_clrerr : statusAfter
    { Engine.reset with lasterr := .invalidParameter, sticky := 0b001 } 0x4 = some 0 := by decide +kernel
theorem test_illegal_wins : statusAfter (activeEngine 0) 0x800011 = some 0x431 := by decide +kernel

/-- Section 2.8, case 1: "ABC" is buffered in stream order. -/
theorem test_ingest_order : after (fun t => t.engine.buf) (exec (.ingest 3)
    (stateWith { activeEngine 0 with data := 0x4142430000000000 } [])) = some [0x41, 0x42, 0x43] := by
  decide +kernel

/-! ## The bus (section 2.9) -/

/-- The responses to one access, after `INIT 512 ; WR DATA, 0x0123456789ABCDEF`. -/
def responsesTo (event : BusEvent) : Option (List Response) :=
  after State.responses (step (stateWith { activeEngine 0 with data := 0x0123456789ABCDEF } [event]))

theorem test_read_data : responsesTo (.read 0x08 8) = some [.readOkay 0x0123456789ABCDEF] := by decide +kernel
theorem test_read_digest_in_active : responsesTo (.read 0x40 8) = some [.readOkay 0] := by decide +kernel
theorem test_read_reserved : responsesTo (.read 0x38 8) = some [.readBusErr 0] := by decide +kernel
theorem test_read_narrow : responsesTo (.read 0x10 4) = some [.readBusErr 0] := by decide +kernel
theorem test_write_status : responsesTo (.write 0x10 8 2) = some [.writeBusErr] := by decide +kernel

/-! ## Primitives, adder and padding (sections 2.1 to 2.5; those of `referenceDataset` are marked (ref) there) -/

/-- `iota`, the block of the bytes 0 to 63. -/
def iota : Block := Vector.ofFn fun i => BitVec.ofNat 8 i.val

theorem test_substitute : (substitute referenceDataset iota)[10] = 0xfa := by decide +kernel
theorem test_permute : (permute iota)[1] = 0x08 ∧ (permute iota)[8] = 0x01 := by decide +kernel
theorem test_linear_word : intBE8 (linearWord referenceDataset (wordBE 0x0123456789abcdef)) =
    0xa49049a565bdc399 := by decide +kernel
theorem test_linear_word_by_table : intBE8 (linearWordByTable referenceDataset (wordBE 0xfedcba9876543210)) =
    0x0f1eb63ba2fba701 := by decide +kernel
/-- Section 2.4: LPS of the zero block, its last word. -/
theorem test_lps : intBE8 (wordAt (lps referenceDataset Block.zeros) 7) = 0xb383fc2eced4a574 := by
  decide +kernel
theorem test_add_wraps : add512 (Vector.replicate 64 0xff) (vecBE 1) = Block.zeros := by decide +kernel
/-- Section 2.5: the carry crosses a 64-bit limb. -/
theorem test_limb_carry : (add512Limbs (vecBE (2 ^ 64 - 1)) (vecBE 1))[55] = 1 := by decide +kernel
theorem test_pad_one_byte : intBE (pad [0xab]) = 0x1ab := by decide +kernel

/-! ## Host programs (rules R56 to R59) -/

theorem test_parse_init : parseLine ['I', 'N', 'I', 'T', ' ', '5', '1', '2'] = some (.command (.init 512)) := by
  decide +kernel
theorem test_parse_write : parseLine ['w', 'r', ' ', '0', 'x', '1', 'C', ',', ' ', '9'] =
    some (.writeRaw 0x1c 9) := by decide +kernel
/-- Program P2, HASH256 of "Hello, World!": its second DATA write carries 5 bytes. -/
theorem test_absorb_data : chunkData [0x6f, 0x72, 0x6c, 0x64, 0x21] = 0x6F726C6421000000 := by decide +kernel

/-! ## Witnesses: what meets the hypotheses of each statement -/

/-- A window at an address other than 0. -/
def movedState (pending : List BusEvent) : State :=
  { stateWith (activeEngine 0) pending with config := { referenceConfig with coreBase := 128 } }

theorem witness_DecodeAndEncodeAgree : (Instr.init 0xFFFF).wf = true ∧ (Instr.ingest 8).wf = true ∧
    Instr.finalize.wf = true ∧ Instr.clrerr.wf = true ∧ decode 0x802 = .ok (.ingest 8) := by decide

theorem witness_OpcodeMapByMaskAndMatch :
    ((0x0 : Reg64).extractLsb' 0 4).toNat = 0 ∧ 5 ≤ ((0x5 : Reg64).extractLsb' 0 4).toNat ∧
    5 ≤ ((0xF : Reg64).extractLsb' 0 4).toNat := by decide

theorem witness_LegalWordsAreTheDecodedOnes : (257 : BitVec 16) ≠ 256 ∧ (257 : BitVec 16) ≠ 512 := by decide

theorem witness_IllegalWordReportsAndDoesNothingElse :
    (∃ err, decode 0x902 = .error err) ∧ (∃ err, decode 0x0 = .error err) ∧
    (stateWith finalEngine [commandWrite 0 0x902]).pending = commandWrite 0 0x902 :: [] :=
  ⟨⟨.countTooLarge, by decide⟩, ⟨.undefinedOpcode, by decide⟩, rfl⟩

theorem witness_StepRunsDecodedCommand :
    (movedState [commandWrite 128 0x302]).pending = commandWrite 128 0x302 :: [] ∧
    decode 0x302 = .ok (.ingest 3) := ⟨rfl, by decide⟩

theorem witness_IdleStepKeepsState : (stateWith (activeEngine 5) []).pending = [] := rfl

theorem witness_InitStartsInstance : ((256 : BitVec 16) = 256 ∨ (256 : BitVec 16) = 512) ∧
    ((255 : BitVec 16) ≠ 256 ∧ (255 : BitVec 16) ≠ 512) ∧
    ((0x11 : Reg64).extractLsb' 0 4 = 1 ∧ legal 0x11 = false) := by decide

/-- 55 and 8 bytes make 63, which are buffered; 56 and 8 make a block. -/
theorem witness_IngestTakesBytesOfData : (8 : BitVec 4).toNat ≤ 8 ∧ (activeEngine 55).phase = .active ∧
    ((activeEngine 55).buf ++ dataBytes (activeEngine 55).data 8).length = 63 ∧
    ((activeEngine 56).buf ++ dataBytes (activeEngine 56).data 8).length = 64 ∧
    finalEngine.phase ≠ .active ∧ 8 < (9 : BitVec 4).toNat ∧
    ((0x902 : Reg64).extractLsb' 0 4 = 2 ∧ legal 0x902 = false) := by decide +kernel

theorem witness_FinalizeFoldsTailLengthAndChecksum : (activeEngine 63).phase = .active ∧
    Engine.reset.phase ≠ .active ∧
    ((0x103 : Reg64).extractLsb' 0 4 = 3 ∧ (0x103 : Reg64) ≠ 0x3) := by decide

theorem witness_ClrerrClearsErrorRecord :
    (0x2000004 : Reg64).extractLsb' 0 4 = 4 ∧ (0x2000004 : Reg64) ≠ 0x4 := by decide

theorem witness_IngestOrFinalizeOutsideActiveIsInvalidState :
    (stateWith Engine.reset []).engine.phase ≠ .active ∧ (Instr.ingest 0).wf = true ∧
    (Instr.ingest 0 = .finalize ∨ ∃ n, Instr.ingest 0 = .ingest n) := ⟨by decide, by decide, .inr ⟨0, rfl⟩⟩

theorem witness_OnlyIngestWritesBufferStorage : (∀ n, Instr.finalize ≠ .ingest n) ∧
    (0 : BitVec 6).toNat ≤ (62 : Fin 63).val := ⟨fun _ h => (by cases h), by decide⟩

theorem witness_TransitionTable : legal 0x0 = false ∧ legal 0x10 = false := by decide

theorem witness_OutcomeIsReportedInLasterrAndSticky :
    after (fun t => t.engine.lasterr) (executeWord 0x4 State.reset) = some .ok ∧
    after (fun t => t.engine.lasterr) (executeWord 0x1 State.reset) = some .invalidParameter ∧
    after (fun t => t.engine.lasterr) (executeWord 0x3 State.reset) = some .invalidState ∧
    after (fun t => t.engine.lasterr) (executeWord 0x0 State.reset) = some .illegalCommand := by decide +kernel

/-- DIGEST7, the last register of the window. -/
theorem witness_AcceptedReadReturnsRegister :
    (movedState [.read (128 + 0x78) 8]).pending = .read (128 + 0x78) 8 :: [] ∧
    (∃ j : Fin 8, 0x78 = 0x40 + 8 * j.val ∧
      digestWord (movedState []).engine 7 = digestWord (movedState []).engine j) := ⟨rfl, 7, rfl, rfl⟩

/-- CMD, DATA and STATUS, the other registers. -/
theorem witness_AcceptedReadReturnsRegister_low :
    (stateWith finalEngine [.read (0 + 0x00) 8]).pending = .read (0 + 0x00) 8 :: [] ∧
    (stateWith finalEngine [.read (0 + 0x08) 8]).pending = .read (0 + 0x08) 8 :: [] ∧
    (stateWith finalEngine [.read (0 + 0x10) 8]).pending = .read (0 + 0x10) 8 :: [] := ⟨rfl, rfl, rfl⟩

/-- An offset that no register has. -/
theorem witness_AcceptedReadReturnsRegister_other :
    (stateWith finalEngine [.read (0 + 0x7f) 8]).pending = .read (0 + 0x7f) 8 :: [] ∧ 0x7f < 0x80 ∧ 0x7f ≠ 0x00 ∧
    0x7f ≠ 0x08 ∧ 0x7f ≠ 0x10 ∧ ∀ j : Fin 8, 0x7f ≠ 0x40 + 8 * j.val := by
  refine ⟨rfl, ?_⟩
  decide

theorem witness_AcceptedWriteStoresDataOrExecutes :
    (movedState [.write (128 + 0x08) 8 7]).pending = .write (128 + 0x08) 8 7 :: [] ∧
    (movedState [.write (128 + 0x00) 8 7]).pending = .write (128 + 0x00) 8 7 :: [] ∧
    (movedState [.write (128 + 0x09) 8 7]).pending = .write (128 + 0x09) 8 7 :: [] := ⟨rfl, rfl, rfl⟩

/-- The last reserved offset, a misaligned one at the end of the window, a narrow access; a write to STATUS, to DIGEST7,
and a narrow one to DATA. -/
theorem witness_BusErrorChangesNoState :
    (movedState [.read (128 + 0x38) 8]).pending = .read (128 + 0x38) 8 :: [] ∧ (0x18 ≤ 0x38 ∧ 0x38 < 0x40) ∧
    (movedState [.read (128 + 0x7f) 8]).pending = .read (128 + 0x7f) 8 :: [] ∧ 0x7f % 8 ≠ 0 ∧
    (movedState [.read (128 + 0x10) 4]).pending = .read (128 + 0x10) 4 :: [] ∧
    (movedState [.write (128 + 0x10) 8 2]).pending = .write (128 + 0x10) 8 2 :: [] ∧ 0x10 ≤ 0x10 ∧
    (movedState [.write (128 + 0x78) 8 1]).pending = .write (128 + 0x78) 8 1 :: [] ∧ 0x10 ≤ 0x78 ∧
    (movedState [.write (128 + 0x08) 1 1]).pending = .write (128 + 0x08) 1 1 :: [] :=
  ⟨rfl, by decide, rfl, by decide, rfl, rfl, by decide, rfl, by decide, rfl⟩

/-- The byte before the window and the byte after it. -/
theorem witness_AccessOutsideWindowLeavesBlock :
    (127 < (movedState []).config.coreBase ∧
      (movedState [.read 127 8]).pending = .read 127 8 :: []) ∧
    ((movedState []).config.coreBase + 0x80 ≤ 256 ∧
      (movedState [.write 256 8 0]).pending = .write 256 8 0 :: []) := ⟨⟨by decide, rfl⟩, by decide, rfl⟩

theorem witness_StatusFields :
    (movedState [.read (128 + 0x10) 8]).pending = .read (128 + 0x10) 8 :: [] ∧
    (movedState [.write (128 + 0x10) 8 1]).pending = .write (128 + 0x10) 8 1 :: [] := ⟨rfl, rfl⟩

/-- DIGEST0 and DIGEST7. -/
theorem witness_DigestRegistersShowH_access :
    (movedState [.read (128 + (0x40 + 8 * (0 : Fin 8).val)) 8]).pending = .read (128 + 0x40) 8 :: [] ∧
    (movedState [.write (128 + (0x40 + 8 * (7 : Fin 8).val)) 8 1]).pending = .write (128 + 0x78) 8 1 :: [] :=
  ⟨rfl, rfl⟩

/-- DIGEST3 and DIGEST4 of a 256-bit instance, DIGEST7 of a 512-bit one, and another phase. -/
theorem witness_DigestRegistersShowH :
    (finalEngine.phase = .finalized ∧ finalEngine.w256 = false) ∧
    ({ finalEngine with w256 := true }.phase = .finalized ∧ (3 : Fin 8).val ≤ 3) ∧
    ({ finalEngine with w256 := true }.w256 = true ∧ 4 ≤ (4 : Fin 8).val) ∧
    (activeEngine 0).phase ≠ .finalized := by decide

/-- Section 2.8, case 4: the lanes 3 to 7 differ. -/
theorem witness_DataLaneOrder : 3 ≤ 8 ∧
    ∀ b, 64 - 8 * 3 ≤ b → b < 64 →
      (0x4142430000000000 : Reg64).getLsbD b = (0x414243DEADBEEF99 : Reg64).getLsbD b := by
  refine ⟨by decide, fun b h₁ h₂ => ?_⟩
  obtain ⟨c, rfl⟩ : ∃ c, b = 40 + c := ⟨b - 40, by omega⟩
  have hc : c < 24 := by omega
  clear h₁ h₂
  revert c
  decide

theorem witness_ResetTakesEveryStateToResetValues :
    (stateWith (activeEngine 1) [.reset]).pending = .reset :: [] := rfl

theorem witness_ResetDuringCommandAbandonsIt :
    (stateWith (activeEngine 1) [.commandCutByReset 3]).pending = .commandCutByReset 3 :: [] := rfl

/-- An ACTIVE block one block into a message, about to take more. -/
theorem witness_StepKeepsInvariant :
    State.Inv (stateWith { activeEngine 5 with n := vecBE 512 } [commandWrite 0 0x302]) ∧
    ∃ t, step (stateWith { activeEngine 5 with n := vecBE 512 } [commandWrite 0 0x302]) = .next t := by
  refine ⟨⟨?_, ?_, ?_⟩, _, rfl⟩
  · exact ⟨smoke_reference_dataset_wf, rfl⟩
  · show (0 : BitVec 3) &&& 0 = 0
    decide
  · show intBE (vecBE 512) % 512 = 0
    decide +kernel

/-- Two IDLE states with different hidden registers. -/
theorem witness_HiddenStateStaysHidden :
    (stateWith Engine.reset [commandWrite 0 0x3]).SameToHost
      (stateWith { Engine.reset with h := iota, n := iota, bufd := Vector.replicate 63 1 } [commandWrite 0 0x3]) where
  config := rfl
  pending := rfl
  responses := rfl
  platformDraws := rfl
  phase := rfl
  w256 := rfl
  buflen := rfl
  data := rfl
  lasterr := rfl
  sticky := rfl
  activeInstance := fun h => absurd h (by decide)
  digest := by decide +kernel

theorem witness_StepKeepsParameters : ∃ t, step (stateWith finalEngine [.reset]) = .next t := ⟨_, rfl⟩

/-- A failing INIT in FINALIZED: an event that is neither a successful INIT nor a reset. -/
theorem witness_FinalizedInstanceIsFrozen :
    (stateWith finalEngine [commandWrite 0 0x1]).engine.phase = .finalized ∧
    (stateWith finalEngine [commandWrite 0 0x1]).pending = commandWrite 0 0x1 :: [] ∧
    ¬ (commandWrite 0 0x1).StartsInstance 0 ∧ ¬ (commandWrite 0 0x1).IsReset := by
  refine ⟨rfl, rfl, ?_, ?_⟩
  · rintro (h | h) <;> revert h <;> decide
  · rintro (h | ⟨v, h⟩) <;> cases h

theorem witness_WidthFixedForLifeOfInstance :
    (stateWith (activeEngine 0) [.write 8 8 1]).pending = .write 8 8 1 :: [] ∧
    ¬ (BusEvent.write 8 8 1).IsReset ∧ ¬ (BusEvent.write 8 8 1).StartsInstance 0 ∧
    ∀ v, BusEvent.write 8 8 1 ≠ commandWrite 0 v := by
  refine ⟨rfl, ?_, ?_, ?_⟩
  · rintro (h | ⟨v, h⟩) <;> cases h
  · rintro (h | h) <;> revert h <;> decide
  · intro v h
    simp [commandWrite] at h

theorem witness_StickyBitsStaySet :
    (stateWith (activeEngine 0) [commandWrite 0 0x0]).pending = commandWrite 0 0x0 :: [] ∧
    ¬ (commandWrite 0 0x0).IsReset ∧ commandWrite 0 0x0 ≠ commandWrite 0 0x4 := by
  refine ⟨rfl, ?_, by decide⟩
  rintro (h | ⟨v, h⟩) <;> cases h

theorem witness_DigestLifetime : (stateWith (activeEngine 0) []).engine.phase ≠ .finalized ∧
    (stateWith finalEngine [.reset]).engine.phase = .finalized ∧
    ((∃ w, Instr.init 128 = .init w ∧ w ≠ 256 ∧ w ≠ 512) ∨ Instr.init 128 = .finalize ∨
      Instr.init 128 = .clrerr) ∧
    ((512 : BitVec 16) = 256 ∨ (512 : BitVec 16) = 512) ∧
    (stateWith finalEngine [.reset]).pending = .reset :: [] :=
  ⟨by decide, rfl, .inl ⟨128, rfl, by decide, by decide⟩, .inr rfl, rfl⟩

theorem witness_SubstituteIsBytewiseBijection : referenceDataset.Wf := smoke_reference_dataset_wf

/-- The zero block has eight equal words. -/
theorem witness_LinearActsWordwise : ∀ i j : Fin 8, wordAt Block.zeros i = wordAt Block.zeros j := by
  decide +kernel

/-- The dataset whose matrix is the identity. -/
def identityDataset : Dataset :=
  { referenceDataset with a := Vector.ofFn fun i => BitVec.twoPow 64 (63 - i.val) }

theorem identity_rows (x : BitVec 64) (j : Nat) (hj : j ≤ 64) (b : Nat) :
    (linearRows identityDataset.a x j).getLsbD b = (decide (b < j) && x.getLsbD b) := by
  induction j with
  | zero => simp [linearRows]
  | succ j ih =>
    have hrow : identityDataset.a[63 - j] = BitVec.twoPow 64 j := by
      simp [identityDataset, show 63 - (63 - j) = j by omega]
    have ih := ih (by omega)
    rw [linearRows]
    by_cases hx : x.getLsbD j = true
    · rw [if_pos hx, BitVec.getLsbD_xor, ih, hrow, BitVec.getLsbD_twoPow]
      by_cases hb : b = j
      · subst hb
        simp [hx, show b < 64 by omega]
      · simp [show (b < j + 1) = (b < j) by simp; omega, Ne.symm hb]
    · rw [if_neg hx, ih]
      by_cases hb : b = j
      · subst hb
        simp [hx]
      · simp [show (b < j + 1) = (b < j) by simp; omega]

theorem witness_ChainIsBijectiveWhenMatrixIsInvertible :
    identityDataset.Wf ∧ Function.Injective (fun x : BitVec 64 => linearRows identityDataset.a x 64) := by
  refine ⟨smoke_reference_dataset_wf, fun x y h => ?_⟩
  apply BitVec.eq_of_getLsbD_eq
  intro b hb
  have hx := identity_rows x 64 (by omega) b
  have hy := identity_rows y 64 (by omega) b
  simp only [show linearRows identityDataset.a x 64 = linearRows identityDataset.a y 64 from h, hb,
    decide_true, Bool.true_and] at hx hy
  rw [← hx, ← hy]

theorem witness_PaddingLayout : ([] : List Byte).length ≤ 63 ∧ (List.replicate 63 (0xff : Byte)).length ≤ 63 := by
  decide

theorem witness_AbsorbDeliversItsBytes : (List.replicate 8 (1 : Byte)).length ≤ 8 ∧
    List.replicate 2 (1 : Byte) ∈ chunksOf (List.replicate 10 1) ((10 + 7) / 8) := by decide

/-- A DATA write, 8 bytes of it, 3 of the same once more, and none. -/
def someFeeds : List Feed := [.data 0x48656C6C6F000000, .ingest 8, .ingest 3, .ingest 0]

theorem test_fedBytes : (fedBytes 0 someFeeds).length = 11 ∧ (fedBytes 0 someFeeds)[8]? = some 0x48 := by decide

theorem witness_DigestIndependentOfChunking : (∀ n, Feed.ingest n ∈ someFeeds → n.toNat ≤ 8) ∧
    ∃ s : State, s.engine.phase = .finalized ∧
      s.pending = commandWrite s.config.coreBase (encode (initOf .w256)) ::
        (someFeeds.map (Feed.event s.config.coreBase) ++ commandWrite s.config.coreBase (encode .finalize) :: []) := by
  refine ⟨by simp [someFeeds], stateWith finalEngine (commandWrite 0 (encode (initOf .w256)) ::
    (someFeeds.map (Feed.event 0) ++ commandWrite 0 (encode .finalize) :: [])), rfl, ?_⟩
  rw [stateWith_pending, stateWith_coreBase]

theorem witness_OneShotHashReadsDigest : ∃ s : State, s.engine.phase = .active ∧
    s.pending = (HostLine.hash .w512 [0x41]).events s.config.coreBase ++ [] := by
  refine ⟨stateWith (activeEngine 3) ((HostLine.hash .w512 [0x41]).events 0 ++ []), rfl, ?_⟩
  rw [stateWith_pending, stateWith_coreBase]

end Sys2Proof.Tests
end

/-! The big-endian readings and their inverses (00_scope.md rule R2), proved once for byte strings of every length, with
`bytesBE` as the inverse of `natBE`, and then read off for blocks (64 bytes) and words (8 bytes). -/

namespace Sys2Proof.Machine

/-! ## Byte strings of any length -/

theorem natBE_cons (b : Byte) (l : List Byte) :
    natBE (b :: l) = b.toNat * 256 ^ l.length + natBE l := by
  rw [← List.singleton_append, natBE_append, natBE_singleton]

theorem natBE_concat (l : List Byte) (b : Byte) : natBE (l ++ [b]) = natBE l * 256 + b.toNat := by
  rw [natBE_append, natBE_singleton, List.length_singleton, pow_one]

theorem natBE_eq_sum (l : List Byte) :
    natBE l = ∑ i : Fin l.length, l[i].toNat * 256 ^ (l.length - 1 - i.val) := by
  induction l with
  | nil => rfl
  | cons b l ih =>
    rw [natBE_cons, ih]
    simp [Fin.sum_univ_succ, Nat.sub_add_eq, Nat.sub_right_comm]

/-- The last byte is the least significant, so the bytes before it are those of the quotient by 256. -/
theorem bytesBE_succ (n x : Nat) :
    bytesBE (n + 1) x = bytesBE n (x / 256) ++ [BitVec.ofNat 8 x] := by
  have hweight : ∀ i < n, x / 256 ^ (n - i) = x / 256 / 256 ^ (n - 1 - i) := fun i hi => by
    rw [Nat.div_div_eq_div_mul, ← pow_succ', show n - 1 - i + 1 = n - i by omega]
  simpa [bytesBE, List.range_succ] using fun i hi => congrArg (BitVec.ofNat 8) (hweight i hi)

theorem natBE_bytesBE (n x : Nat) : natBE (bytesBE n x) = x % 256 ^ n := by
  induction n generalizing x with
  | zero => simp [bytesBE, Nat.mod_one]
  | succ n ih =>
    rw [bytesBE_succ, natBE_concat, ih, BitVec.toNat_ofNat, pow_succ' 256 n, Nat.mod_mul]
    omega

theorem bytesBE_natBE (l : List Byte) : bytesBE l.length (natBE l) = l := by
  induction l using List.reverseRecOn with
  | nil => rfl
  | append_singleton l b ih =>
    have hquot : natBE (l ++ [b]) / 256 = natBE l := by
      rw [natBE_concat]
      have := b.isLt
      omega
    have hlast : BitVec.ofNat 8 (natBE (l ++ [b])) = b := by
      apply BitVec.eq_of_toNat_eq
      rw [natBE_concat, BitVec.toNat_ofNat]
      have := b.isLt
      omega
    rw [List.length_append, List.length_singleton, bytesBE_succ, hquot, hlast, ih]

/-! ## Byte strings of a fixed length -/

theorem two_pow_eight_mul (n : Nat) : 2 ^ (8 * n) = 256 ^ n := pow_mul 2 8 n

theorem toList_ofFn_eq_bytesBE (n x : Nat) :
    (Vector.ofFn fun i : Fin n => BitVec.ofNat 8 (x / 256 ^ (n - 1 - i.val))).toList = bytesBE n x := by
  apply List.ext_getElem <;> simp [bytesBE]

theorem natBE_toList_lt {n : Nat} (v : Vector Byte n) : natBE v.toList < 256 ^ n := by
  simpa using natBE_lt v.toList

theorem natBE_toList_eq_sum {n : Nat} (v : Vector Byte n) :
    natBE v.toList = ∑ i : Fin n, v[i].toNat * 256 ^ (n - 1 - i.val) := by
  obtain ⟨⟨l⟩, rfl⟩ := v
  exact natBE_eq_sum l

theorem bytesBE_natBE_toList {n : Nat} (v : Vector Byte n) :
    bytesBE n (natBE v.toList) = v.toList := by
  simpa using bytesBE_natBE v.toList

/-! ## Blocks -/

theorem toList_vecBE (x : Nat) : (vecBE x).toList = bytesBE 64 x :=
  toList_ofFn_eq_bytesBE 64 x

theorem intBE_lt (v : Block) : intBE v < 2 ^ 512 :=
  (natBE_toList_lt v).trans_eq (by rw [← two_pow_eight_mul 64])

@[simp] theorem vecBE_intBE (v : Block) : vecBE (intBE v) = v := by
  rw [← Vector.toList_inj, toList_vecBE, intBE, bytesBE_natBE_toList]

@[simp] theorem intBE_vecBE (x : Nat) : intBE (vecBE x) = x % 2 ^ 512 := by
  rw [intBE, toList_vecBE, natBE_bytesBE, ← two_pow_eight_mul 64]

/-! ## Words -/

theorem toList_wordBE (x : BitVec 64) : (wordBE x).toList = bytesBE 8 x.toNat := by
  have hbyte : ∀ k, x.extractLsb' (8 * k) 8 = BitVec.ofNat 8 (x.toNat / 256 ^ k) := fun k => by
    rw [BitVec.extractLsb', Nat.shiftRight_eq_div_pow, two_pow_eight_mul]
  simpa only [wordBE, hbyte] using toList_ofFn_eq_bytesBE 8 x.toNat

/-- The reading of 8 bytes fits 64 bits, so `intBE8` loses nothing. -/
theorem toNat_intBE8 (w : Word) : (intBE8 w).toNat = natBE w.toList :=
  Nat.mod_eq_of_lt ((natBE_toList_lt w).trans_eq (two_pow_eight_mul 8).symm)

@[simp] theorem wordBE_intBE8 (w : Word) : wordBE (intBE8 w) = w := by
  rw [← Vector.toList_inj, toList_wordBE, toNat_intBE8, bytesBE_natBE_toList]

@[simp] theorem intBE8_wordBE (x : BitVec 64) : intBE8 (wordBE x) = x := by
  apply BitVec.eq_of_toNat_eq
  rw [toNat_intBE8, toList_wordBE, natBE_bytesBE, ← two_pow_eight_mul 8, Nat.mod_eq_of_lt x.isLt]

/-- Settles O36: the sums are the general one at 64 and 8 bytes, and `vecBE` and `wordBE` list the bytes of their
argument. -/
theorem bigEndianReadings : Obligations.BigEndianReadings := by
  unfold Obligations.BigEndianReadings
  exact ⟨natBE_toList_eq_sum, fun v => ⟨intBE_lt v, vecBE_intBE v⟩, intBE_vecBE,
    fun w => (toNat_intBE8 w).trans (natBE_toList_eq_sum w), wordBE_intBE8, intBE8_wordBE⟩

end Sys2Proof.Machine

/-! What the block does on an event of the bus, said once: the possible effects of a command and of an event as two
inductive relations on the block, each tied to the model by a lemma that its step answers such an effect. The rules
that every step keeps are case splits on these relations. -/

namespace Sys2Proof.Machine

/-! ## A decoded word is the encoding of its command (30_encoding.md rules R50 and R53) -/

/-- A bit of a word, as a bit of the field it lies in. -/
theorem getLsbD_eq_field (v : Reg64) (start len j : Nat) (h₁ : start ≤ j) (h₂ : j < start + len) :
    v.getLsbD j = (v.extractLsb' start len).getLsbD (j - start) := by
  rw [BitVec.getLsbD_extractLsb', Nat.add_sub_cancel' h₁]
  simp [show j - start < len by omega]

/-- A word whose reserved fields are 0 is made of its OPC, COUNT and WIDTH. -/
theorem commandWord_fields (v : Reg64) (h₀ : rsv0 v = 0) (h₁ : rsv1 v = 0) (h₂ : rsv2 v = 0) :
    commandWord (widthField v) (countField v) (opc v) = v := by
  apply BitVec.eq_of_getLsbD_eq
  intro j hj
  rw [Laws.EncodedLegal.getLsbD_commandWord]
  split_ifs
  · exact (getLsbD_eq_field v 0 4 j (by omega) (by omega)).symm
  · exact (getLsbD_eq_field v 8 4 j (by omega) (by omega)).symm
  · exact (getLsbD_eq_field v 16 16 j (by omega) (by omega)).symm
  · have hreserved : 4 ≤ j ∧ j < 8 ∨ 12 ≤ j ∧ j < 16 ∨ 32 ≤ j ∧ j < 64 := by omega
    rcases hreserved with h | h | h
    · rw [getLsbD_eq_field v 4 4 j h.1 h.2, ← rsv0, h₀]; simp
    · rw [getLsbD_eq_field v 12 4 j h.1 h.2, ← rsv1, h₁]; simp
    · rw [getLsbD_eq_field v 32 32 j h.1 h.2, ← rsv2, h₂]; simp

theorem encode_of_decode {v : Reg64} {i : Instr} (h : decode v = .ok i) : encode i = v := by
  by_cases hrsv : rsv0 v ≠ 0 ∨ rsv1 v ≠ 0 ∨ rsv2 v ≠ 0
  · rw [decode, if_pos hrsv] at h
    cases h
  · have hword : commandWord (widthField v) (countField v) (opc v) = v := by
      push Not at hrsv
      exact commandWord_fields v hrsv.1 hrsv.2.1 hrsv.2.2
    rw [decode, if_neg hrsv] at h
    split_ifs at h with hopc hcount hopc hwidth hcount hopc hcount hwidth hopc hcount hwidth <;> cases h
    · rwa [hopc, not_not.mp hcount] at hword
    · rwa [hopc, not_not.mp hwidth] at hword
    · rwa [hopc, not_not.mp hcount, not_not.mp hwidth] at hword
    · rwa [hopc, not_not.mp hcount, not_not.mp hwidth] at hword

/-! ## The effect of a command and of an event -/

/-- What a command does to the block: it fails, and its outcome is recorded; or it does its work and reports OK. -/
inductive Engine.AfterCommand (k : Dataset) (e : Engine) : Instr → Engine → Prop
  | failed (i : Instr) (code : OutcomeCode) (hcode : code ≠ .ok) : AfterCommand k e i (e.report code)
  | started (width : BitVec 16) (hwidth : width = 256 ∨ width = 512) :
      AfterCommand k e (.init width) ((Engine.start k width e).report .ok)
  | tookBytes (count : BitVec 4) (hcount : count.toNat ≤ 8) (hphase : e.phase = .active) :
      AfterCommand k e (.ingest count) ((e.takeBytes k (dataBytes e.data count.toNat)).report .ok)
  | finalized (hphase : e.phase = .active) :
      AfterCommand k e .finalize
        (Engine.report { (e.finalSequence k).emptyBuf with phase := .finalized } .ok)
  | cleared : AfterCommand k e .clrerr (Engine.report { e with sticky := 0 } .ok)

/-- Every command answers a next state, with such an effect on the block and none beside it. -/
theorem exec_afterCommand (i : Instr) (s : State) :
    ∃ e, exec i s = .next { s with engine := e } ∧ s.engine.AfterCommand s.config.dataset i e := by
  cases i with
  | init width =>
    rcases execInit_cases width s with ⟨hwidth, h⟩ | ⟨_, h⟩
    · exact ⟨_, h, .started width hwidth⟩
    · exact ⟨_, h, .failed _ .invalidParameter (by decide)⟩
  | ingest count =>
    rcases execIngest_cases count s with ⟨_, h⟩ | ⟨_, _, h⟩ | ⟨hcount, hphase, h⟩
    · exact ⟨_, h, .failed _ .illegalCommand (by decide)⟩
    · exact ⟨_, h, .failed _ .invalidState (by decide)⟩
    · exact ⟨_, h, .tookBytes count hcount hphase⟩
  | finalize =>
    rcases execFinalize_cases s with ⟨_, h⟩ | ⟨hphase, h⟩
    · exact ⟨_, h, .failed _ .invalidState (by decide)⟩
    · exact ⟨_, h, .finalized hphase⟩
  | clrerr => exact ⟨_, rfl, .cleared⟩

/-- What an event does to the block: nothing, a write of DATA, the report of an illegal word, the effect of the command
that a word written to CMD stands for, or a reset. -/
inductive Engine.AfterEvent (c : Config) (e : Engine) (event : BusEvent) : Engine → Prop
  | kept : AfterEvent c e event e
  | wroteData (v : Reg64) : AfterEvent c e event (e.writeData v)
  | rejected (v : Reg64) (hevent : event = commandWrite c.coreBase v) :
      AfterEvent c e event (e.report .illegalCommand)
  | executed (v : Reg64) (i : Instr) (e' : Engine) (hevent : event = commandWrite c.coreBase v)
      (hdecode : decode v = .ok i) (hafter : e.AfterCommand c.dataset i e') : AfterEvent c e event e'
  | reset (hevent : event.IsReset) : AfterEvent c e event Engine.reset

theorem perform_afterEvent (event : BusEvent) (s : State) :
    ∃ t, perform event s = .next t ∧ t.config = s.config ∧
      s.engine.AfterEvent s.config event t.engine := by
  rcases perform_cases event s with
    ⟨r, h⟩ | h | ⟨v, h⟩ | ⟨v, t, hevent, ht, h⟩ | ⟨hevent, h⟩ | ⟨v, hevent, h⟩
  · exact ⟨_, h, rfl, .kept⟩
  · exact ⟨_, h, rfl, .kept⟩
  · exact ⟨_, h, rfl, .wroteData v⟩
  · refine ⟨_, h, ?_⟩
    rcases executeWord_cases v s with ⟨_, _, hexec⟩ | ⟨i, hdecode, hexec⟩
    · cases ht.symm.trans hexec
      exact ⟨rfl, .rejected v hevent⟩
    · obtain ⟨e, he, hafter⟩ := exec_afterCommand i s
      cases (ht.symm.trans hexec).trans he
      exact ⟨rfl, .executed v i e hevent hdecode hafter⟩
  · exact ⟨_, h, rfl, .reset (.inl hevent)⟩
  · exact ⟨_, h, rfl, .reset (.inr ⟨v, hevent⟩)⟩

theorem step_afterEvent (s : State) (event : BusEvent) (rest : List BusEvent) (h : s.pending = event :: rest) :
    ∃ t, step s = .next t ∧ t.config = s.config ∧ s.engine.AfterEvent s.config event t.engine := by
  rw [step_event s event rest h]
  exact perform_afterEvent event { s with pending := rest }

/-- What a step that answers can do: idle, or take an event. -/
theorem step_cases {s t : State} (h : step s = .next t) :
    t = s ∨ ∃ event, t.config = s.config ∧ s.engine.AfterEvent s.config event t.engine := by
  cases hp : s.pending with
  | nil =>
    rw [step_idle s hp] at h
    cases h
    exact .inl rfl
  | cons event rest =>
    obtain ⟨u, hu, hafter⟩ := step_afterEvent s event rest hp
    cases hu.symm.trans h
    exact .inr ⟨event, hafter⟩

/-! ## The bytes that INGEST takes (43_commands.md rule R102) -/

theorem Engine.buf_append_length_le (e : Engine) {d : List Byte} (hd : d.length ≤ 8) :
    (e.buf ++ d).length ≤ 71 := by
  have := e.buf_length_le
  rw [List.length_append]
  omega

/-- INGEST stores a string of at most 63 bytes, after it has absorbed a block or none. -/
theorem Engine.takeBytes_cases (k : Dataset) (d : List Byte) (e : Engine) (hd : d.length ≤ 8) :
    ∃ bytes, bytes.length ≤ 63 ∧
      (e.takeBytes k d = e.setBuf bytes ∨ ∃ m, e.takeBytes k d = (e.absorbBlock k m).setBuf bytes) := by
  have hlen := e.buf_append_length_le hd
  by_cases h : (e.buf ++ d).length < 64
  · exact ⟨_, by omega, .inl (e.takeBytes_short k d h)⟩
  · exact ⟨_, by rw [List.length_drop]; omega, .inr ⟨_, e.takeBytes_full k d (by omega) (by omega)⟩⟩

theorem dataBytes_length_le {v : Reg64} {n : Nat} (h : n ≤ 8) : (dataBytes v n).length ≤ 8 := by
  rwa [dataBytes_length]

/-! ## The invariant -/

/-- Adding a multiple of `m` modulo 2^512, itself a multiple of `m`, keeps the residue modulo `m`. -/
theorem intBE_add512_vecBE_mod {m x : Nat} (a : Block) (hm : m ∣ 2 ^ 512) (hx : m ∣ x) :
    intBE (add512 a (vecBE x)) % m = intBE a % m := by
  rw [add512, intBE_vecBE, intBE_vecBE, Nat.mod_mod, Nat.mod_mod_of_dvd _ hm, Nat.add_mod,
    Nat.mod_mod_of_dvd _ hm, Nat.mod_eq_zero_of_dvd hx, Nat.add_zero, Nat.mod_mod]

theorem intBE_zeros : intBE Block.zeros = 0 := natBE_replicate_zero 64

/-- One more block keeps `N` a multiple of the block's length. -/
theorem intBE_add512_blockBits (n : Block) : intBE (add512 n blockBits) % 512 = intBE n % 512 :=
  intBE_add512_vecBE_mod n (pow_dvd_pow 2 (show 9 ≤ 512 by decide)) dvd_rfl

/-- The tail, of whole bytes, keeps `N` a multiple of 8. -/
theorem intBE_add512_tailBits (n : Block) (r : Nat) : intBE (add512 n (tailBits r)) % 8 = intBE n % 8 :=
  intBE_add512_vecBE_mod n (pow_dvd_pow 2 (show 3 ≤ 512 by decide)) (Nat.dvd_mul_right 8 r)

theorem or_and_self_left {w : Nat} (x y : BitVec w) : (x ||| y) &&& x = x := by
  ext j hj
  simpa using .inl

theorem Engine.recordsOutcome_report (e : Engine) (code : OutcomeCode) : (e.report code).RecordsOutcome := by
  rw [Engine.RecordsOutcome, Engine.report_sticky, Engine.report_lasterr, stickyAfter, BitVec.or_comm,
    or_and_self_left]

theorem Engine.phaseCoherent_report (e : Engine) (code : OutcomeCode) :
    (e.report code).PhaseCoherent ↔ e.PhaseCoherent := Iff.rfl

theorem Engine.phaseCoherent_of_active {e : Engine} (h : e.phase = .active) :
    e.PhaseCoherent ↔ intBE e.n % 512 = 0 := by
  rw [Engine.PhaseCoherent, h]

theorem Engine.phaseCoherent_of_finalized {e : Engine} (h : e.phase = .finalized) :
    e.PhaseCoherent ↔ e.buflen = 0 ∧ intBE e.n % 8 = 0 := by
  rw [Engine.PhaseCoherent, h]

theorem Engine.takeBytes_n_mod (k : Dataset) (d : List Byte) (e : Engine) (hd : d.length ≤ 8) :
    intBE (e.takeBytes k d).n % 512 = intBE e.n % 512 := by
  obtain ⟨bytes, _, h | ⟨m, h⟩⟩ := e.takeBytes_cases k d hd
  · rw [h, Engine.setBuf_n]
  · rw [h, Engine.setBuf_n, Engine.absorbBlock_n, intBE_add512_blockBits]

section
variable {k : Dataset} {c : Config} {e e' : Engine} {i : Instr} {event : BusEvent}

/-- Every command ends with a report. -/
theorem Engine.AfterCommand.recordsOutcome (h : e.AfterCommand k i e') : e'.RecordsOutcome := by
  cases h <;> exact Engine.recordsOutcome_report _ _

theorem Engine.AfterCommand.phaseCoherent (h : e.AfterCommand k i e') (he : e.PhaseCoherent) :
    e'.PhaseCoherent := by
  cases h with
  | failed => exact he
  | started width _ =>
    rw [Engine.phaseCoherent_report, Engine.phaseCoherent_of_active rfl, Engine.start_n, intBE_zeros]
  | tookBytes count hcount hphase =>
    rw [Engine.phaseCoherent_of_active hphase] at he
    rw [Engine.phaseCoherent_report, Engine.phaseCoherent_of_active (by simpa using hphase),
      Engine.takeBytes_n_mod _ _ _ (dataBytes_length_le hcount), he]
  | finalized hphase =>
    rw [Engine.phaseCoherent_of_active hphase] at he
    rw [Engine.phaseCoherent_report, Engine.phaseCoherent_of_finalized rfl]
    refine ⟨rfl, ?_⟩
    rw [Engine.emptyBuf_n, Engine.finalSequence_n, intBE_add512_tailBits]
    omega
  | cleared => exact he

theorem Engine.recordsOutcome_reset : Engine.reset.RecordsOutcome := by
  unfold Engine.RecordsOutcome
  decide

theorem Engine.phaseCoherent_reset : Engine.reset.PhaseCoherent := ⟨rfl, rfl, rfl, rfl, rfl, rfl⟩

theorem Engine.AfterEvent.recordsOutcome (h : e.AfterEvent c event e') (he : e.RecordsOutcome) :
    e'.RecordsOutcome := by
  cases h with
  | kept => exact he
  | wroteData => exact he
  | rejected => exact Engine.recordsOutcome_report _ _
  | executed _ _ _ _ _ hafter => exact hafter.recordsOutcome
  | reset => exact Engine.recordsOutcome_reset

theorem Engine.AfterEvent.phaseCoherent (h : e.AfterEvent c event e') (he : e.PhaseCoherent) :
    e'.PhaseCoherent := by
  cases h with
  | kept => exact he
  | wroteData => exact he
  | rejected => exact he
  | executed _ _ _ _ _ hafter => exact hafter.phaseCoherent he
  | reset => exact Engine.phaseCoherent_reset
end

/-- Settles O28: each part of the invariant is kept by every effect an event has on the block. -/
theorem stepKeepsInvariant : Obligations.StepKeepsInvariant := by
  unfold Obligations.StepKeepsInvariant
  intro s t hs h
  rcases step_cases h with rfl | ⟨event, hconfig, hafter⟩
  · exact hs
  · exact ⟨hconfig ▸ hs.config, hafter.recordsOutcome hs.records, hafter.phaseCoherent hs.phase⟩

end Sys2Proof.Machine

/-! Noninterference: what the host can tell of the block, as a relation on two blocks, is kept by every operation, and
so by every step of the machine. -/

namespace Sys2Proof.Machine

/-! ## Blocks that the host cannot tell apart -/

/-- `State.SameToHost` of the block alone. -/
structure Engine.SameToHost (e e' : Engine) : Prop where
  phase : e.phase = e'.phase
  w256 : e.w256 = e'.w256
  buflen : e.buflen = e'.buflen
  data : e.data = e'.data
  lasterr : e.lasterr = e'.lasterr
  sticky : e.sticky = e'.sticky
  activeInstance : e.phase = .active → e.h = e'.h ∧ e.n = e'.n ∧ e.sigma = e'.sigma ∧ e.buf = e'.buf
  digest : ∀ j, digestWord e j = digestWord e' j

theorem Engine.SameToHost.refl (e : Engine) : e.SameToHost e :=
  ⟨rfl, rfl, rfl, rfl, rfl, rfl, fun _ => ⟨rfl, rfl, rfl, rfl⟩, fun _ => rfl⟩

theorem digestWord_of_ne_finalized {e : Engine} (h : e.phase ≠ .finalized) (j : Fin 8) : digestWord e j = 0 := by
  rw [digestWord, if_neg fun hc => h hc.1]

theorem digestWord_congr {e e' : Engine} (hphase : e.phase = e'.phase) (hw256 : e.w256 = e'.w256)
    (hh : e.h = e'.h) (j : Fin 8) : digestWord e j = digestWord e' j := by
  rw [digestWord, digestWord, hphase, hw256, hh]

section
variable {e e' : Engine}

/-- In ACTIVE the DIGEST registers show nothing of the running hash. -/
theorem Engine.digestWord_eq_of_active (h : e.phase = .active) (h' : e'.phase = .active) (j : Fin 8) :
    digestWord e j = digestWord e' j := by
  rw [digestWord_of_ne_finalized (by simp [h]), digestWord_of_ne_finalized (by simp [h'])]

/-- An accepted read returns the same data. -/
theorem Engine.SameToHost.readReg (h : e.SameToHost e') (r : WindowReg) : readReg e r = readReg e' r := by
  cases r with
  | cmd => rfl
  | data => exact h.data
  | status =>
    simp only [Machine.readReg, statusWord, h.phase, h.w256, h.lasterr, h.sticky, h.buflen]
  | digest j => exact h.digest j

theorem Engine.SameToHost.report (h : e.SameToHost e') (code : OutcomeCode) :
    (e.report code).SameToHost (e'.report code) where
  phase := h.phase
  w256 := h.w256
  buflen := h.buflen
  data := h.data
  lasterr := rfl
  sticky := congrArg (stickyAfter · code) h.sticky
  activeInstance := h.activeInstance
  digest := h.digest

theorem Engine.SameToHost.writeData (h : e.SameToHost e') (v : Reg64) :
    (e.writeData v).SameToHost (e'.writeData v) :=
  { h with data := rfl }

theorem Engine.SameToHost.clearSticky (h : e.SameToHost e') :
    Engine.SameToHost { e with sticky := 0 } { e' with sticky := 0 } :=
  { h with sticky := rfl }

/-- INIT leaves nothing of the hash before it. -/
theorem Engine.SameToHost.start (h : e.SameToHost e') (k : Dataset) (width : BitVec 16) :
    (Engine.start k width e).SameToHost (Engine.start k width e') where
  phase := rfl
  w256 := rfl
  buflen := rfl
  data := h.data
  lasterr := h.lasterr
  sticky := h.sticky
  activeInstance _ := ⟨rfl, rfl, rfl, by simp [Engine.buf]⟩
  digest := Engine.digestWord_eq_of_active rfl rfl

theorem Engine.SameToHost.absorbBlock (h : e.SameToHost e') (hphase : e.phase = .active) (k : Dataset) (m : Block) :
    (e.absorbBlock k m).SameToHost (e'.absorbBlock k m) := by
  obtain ⟨hh, hn, hsigma, hbuf⟩ := h.activeInstance hphase
  refine { h with activeInstance := fun _ => ⟨?_, ?_, ?_, hbuf⟩, digest := ?_ }
  · rw [Engine.absorbBlock_h, Engine.absorbBlock_h, hh, hn]
  · rw [Engine.absorbBlock_n, Engine.absorbBlock_n, hn]
  · rw [Engine.absorbBlock_sigma, Engine.absorbBlock_sigma, hsigma]
  · exact Engine.digestWord_eq_of_active hphase (h.phase ▸ hphase)

theorem Engine.SameToHost.setBuf (h : e.SameToHost e') {bytes : List Byte} (hlen : bytes.length ≤ 63) :
    (e.setBuf bytes).SameToHost (e'.setBuf bytes) := by
  refine { h with buflen := rfl, activeInstance := fun hphase => ?_ }
  obtain ⟨hh, hn, hsigma, _⟩ := h.activeInstance hphase
  exact ⟨hh, hn, hsigma, by rw [Engine.buf_setBuf _ _ hlen, Engine.buf_setBuf _ _ hlen]⟩

/-- INGEST reads no byte of BUFD but those of BUF. -/
theorem Engine.SameToHost.takeBytes (h : e.SameToHost e') (hphase : e.phase = .active) (k : Dataset)
    {d : List Byte} (hd : d.length ≤ 8) : (e.takeBytes k d).SameToHost (e'.takeBytes k d) := by
  obtain ⟨_, _, _, hbuf⟩ := h.activeInstance hphase
  have hlen := e.buf_append_length_le hd
  by_cases hshort : (e.buf ++ d).length < 64
  · rw [e.takeBytes_short k d hshort, e'.takeBytes_short k d (hbuf ▸ hshort), ← hbuf]
    exact h.setBuf (by omega)
  · rw [e.takeBytes_full k d (by omega) (by omega), e'.takeBytes_full k d (by rw [← hbuf]; omega)
      (by rw [← hbuf]; omega), ← hbuf]
    exact (h.absorbBlock hphase k _).setBuf (by rw [List.length_drop]; omega)

/-- FINALIZE makes the digest of `h`, `N`, `SIGMA` and BUF alone. -/
theorem Engine.SameToHost.finalize (h : e.SameToHost e') (hphase : e.phase = .active) (k : Dataset) :
    Engine.SameToHost { (e.finalSequence k).emptyBuf with phase := .finalized }
      { (e'.finalSequence k).emptyBuf with phase := .finalized } := by
  obtain ⟨hh, hn, hsigma, hbuf⟩ := h.activeInstance hphase
  refine { h with phase := rfl, buflen := rfl, activeInstance := nofun, digest := digestWord_congr rfl h.w256 ?_ }
  show (e.finalSequence k).h = (e'.finalSequence k).h
  rw [Engine.finalSequence_h, Engine.finalSequence_h, hh, hn, hsigma, hbuf, h.buflen]
end

/-! ## States that the host cannot tell apart -/

section
variable {s t : State}

theorem State.SameToHost.engines (h : s.SameToHost t) : s.engine.SameToHost t.engine :=
  { h with }

/-- A change of the two blocks that the host cannot tell apart. -/
theorem State.SameToHost.mapEngine (h : s.SameToHost t) {f g : Engine → Engine}
    (hfg : (f s.engine).SameToHost (g t.engine)) : (s.mapEngine f).SameToHost (t.mapEngine g) :=
  { hfg, h with }

theorem State.SameToHost.report (h : s.SameToHost t) (code : OutcomeCode) :
    (s.report code).SameToHost (t.report code) :=
  h.mapEngine (h.engines.report code)

theorem State.SameToHost.respond (h : s.SameToHost t) (r : Response) : (s.respond r).SameToHost (t.respond r) :=
  { h with responses := congrArg (· ++ [r]) h.responses }

theorem State.SameToHost.respondPlatform (h : s.SameToHost t) : s.respondPlatform.SameToHost t.respondPlatform := by
  refine { h with responses := ?_, platformDraws := ?_ }
  · rw [State.respondPlatform_responses, State.respondPlatform_responses, h.responses, h.platformDraws]
  · rw [State.respondPlatform_platformDraws, State.respondPlatform_platformDraws, h.platformDraws]

theorem State.SameToHost.resetBlock (h : s.SameToHost t) : (resetBlock s).SameToHost (resetBlock t) :=
  h.mapEngine (Engine.SameToHost.refl _)

theorem State.SameToHost.withPending (h : s.SameToHost t) (rest : List BusEvent) :
    State.SameToHost { s with pending := rest } { t with pending := rest } :=
  { h with pending := rfl }
end

/-! ## Steps that the host cannot tell apart -/

/-- Two steps answer next states that the host cannot tell apart. -/
def Outcome.SameToHost (o o' : Outcome) : Prop :=
  ∃ s t, o = .next s ∧ o' = .next t ∧ s.SameToHost t

theorem State.SameToHost.next {s t : State} (h : s.SameToHost t) :
    Outcome.SameToHost (.next s) (.next t) := ⟨s, t, rfl, rfl, h⟩

theorem Outcome.SameToHost.mapNext_respond {o o' : Outcome} (h : o.SameToHost o') (r : Response) :
    Outcome.SameToHost (mapNext (·.respond r) o) (mapNext (·.respond r) o') := by
  obtain ⟨s, t, rfl, rfl, h⟩ := h
  exact (h.respond r).next

section
variable {s t : State} (h : s.SameToHost t)
include h

theorem execInit_sameToHost (width : BitVec 16) :
    Outcome.SameToHost (execInit width s) (execInit width t) := by
  unfold execInit
  split_ifs
  · exact (h.report _).next
  · rw [← h.config]
    exact ((h.mapEngine (h.engines.start _ width)).report _).next

theorem execIngest_sameToHost (count : BitVec 4) :
    Outcome.SameToHost (execIngest count s) (execIngest count t) := by
  unfold execIngest
  rw [← h.phase]
  split_ifs with hcount hphase
  · exact (h.report _).next
  · exact (h.report _).next
  · rw [← h.config, ← h.data]
    have hbytes := h.engines.takeBytes (not_not.mp hphase) s.config.dataset
      (dataBytes_length_le (v := s.engine.data) (Nat.not_lt.mp hcount))
    exact ((h.mapEngine hbytes).report _).next

theorem execFinalize_sameToHost : Outcome.SameToHost (execFinalize s) (execFinalize t) := by
  unfold execFinalize
  rw [← h.phase]
  split_ifs with hphase
  · exact (h.report _).next
  · rw [← h.config]
    exact ((h.mapEngine (h.engines.finalize (not_not.mp hphase) _)).report _).next

theorem exec_sameToHost (i : Instr) : Outcome.SameToHost (exec i s) (exec i t) := by
  cases i with
  | init width => exact execInit_sameToHost h width
  | ingest count => exact execIngest_sameToHost h count
  | finalize => exact execFinalize_sameToHost h
  | clrerr => exact ((h.mapEngine h.engines.clearSticky).report _).next

theorem executeWord_sameToHost (v : Reg64) : Outcome.SameToHost (executeWord v s) (executeWord v t) := by
  unfold executeWord
  split
  · exact (h.report _).next
  · exact exec_sameToHost h _

theorem readWindow_sameToHost (off size : Nat) :
    Outcome.SameToHost (readWindow off size s) (readWindow off size t) := by
  unfold readWindow
  split
  · rw [h.engines.readReg]
    exact (h.respond _).next
  · exact (h.respond _).next

theorem writeWindow_sameToHost (off size : Nat) (v : Reg64) :
    Outcome.SameToHost (writeWindow off size v s) (writeWindow off size v t) := by
  unfold writeWindow
  split
  · exact (executeWord_sameToHost h v).mapNext_respond _
  · exact ((h.mapEngine (h.engines.writeData v)).respond _).next
  all_goals exact (h.respond _).next

theorem perform_sameToHost (event : BusEvent) : Outcome.SameToHost (perform event s) (perform event t) := by
  cases event with
  | read addr size =>
    cases hw : windowOffset s.config.coreBase addr with
    | some off =>
      simp only [perform, ← h.config, hw]
      exact readWindow_sameToHost h off size
    | none =>
      simp only [perform, ← h.config, hw]
      exact h.respondPlatform.next
  | write addr size v =>
    cases hw : windowOffset s.config.coreBase addr with
    | some off =>
      simp only [perform, ← h.config, hw]
      exact writeWindow_sameToHost h off size v
    | none =>
      simp only [perform, ← h.config, hw]
      exact h.respondPlatform.next
  | reset => exact h.resetBlock.next
  | commandCutByReset v => exact h.resetBlock.respondPlatform.next

theorem step_sameToHost : Outcome.SameToHost (step s) (step t) := by
  cases hp : s.pending with
  | nil =>
    rw [step_idle s hp, step_idle t (h.pending ▸ hp)]
    exact h.next
  | cons event rest =>
    rw [step_event s event rest hp, step_event t event rest (h.pending ▸ hp)]
    exact perform_sameToHost (h.withPending rest) event
end

/-- Settles O30: every event acts alike on two states that the host cannot tell apart. -/
theorem hiddenStateStaysHidden : Obligations.HiddenStateStaysHidden := by
  unfold Obligations.HiddenStateStaysHidden
  exact fun s t h => step_sameToHost h

end Sys2Proof.Machine

/-! The rules of the state that single events keep or break: the parameters, the finalized hash, the width, the
error record, and the frame of BUFD. -/

namespace Sys2Proof.Machine

/-- Settles O31: neither an idle step nor an event changes `State.config`. -/
theorem stepKeepsParameters : Obligations.StepKeepsParameters := by
  unfold Obligations.StepKeepsParameters
  intro s t h
  rcases step_cases h with rfl | ⟨event, hconfig, _⟩
  · rfl
  · exact hconfig

/-! ## The running hash -/

/-- Only DATA, LASTERR and STICKY, which are no part of a hash, may differ. -/
def Engine.SameInstance (e e' : Engine) : Prop :=
  e' = { e with data := e'.data, lasterr := e'.lasterr, sticky := e'.sticky }

/-- A word that decodes to an INIT of a width that the block accepts is one of the two of `StartsInstance`. -/
theorem startsInstance_of_decode {base : Nat} {v : Reg64} {width : BitVec 16} (hdecode : decode v = .ok (.init width))
    (hwidth : width = 256 ∨ width = 512) : (commandWrite base v).StartsInstance base := by
  rw [← encode_of_decode hdecode]
  rcases hwidth with rfl | rfl
  · exact .inl rfl
  · exact .inr rfl

section
variable {k : Dataset} {c : Config} {e e' : Engine} {i : Instr} {event : BusEvent}

/-- In FINALIZED only a successful INIT touches the hash. -/
theorem Engine.AfterCommand.sameInstance (h : e.AfterCommand k i e') (hphase : e.phase = .finalized)
    (hinit : ∀ width, i = .init width → ¬ (width = 256 ∨ width = 512)) : e.SameInstance e' := by
  cases h with
  | failed => exact rfl
  | started width hwidth => exact absurd hwidth (hinit width rfl)
  | tookBytes _ _ hactive => exact absurd (hactive.symm.trans hphase) nofun
  | finalized hactive => exact absurd (hactive.symm.trans hphase) nofun
  | cleared => exact rfl

theorem Engine.AfterEvent.sameInstance (h : e.AfterEvent c event e') (hphase : e.phase = .finalized)
    (hstart : ¬ event.StartsInstance c.coreBase) (hreset : ¬ event.IsReset) : e.SameInstance e' := by
  cases h with
  | kept => exact rfl
  | wroteData => exact rfl
  | rejected => exact rfl
  | executed v i _ hevent hdecode hafter =>
    refine hafter.sameInstance hphase fun width hi hwidth => hstart ?_
    rw [hevent]
    exact startsInstance_of_decode (hi ▸ hdecode) hwidth
  | reset hevent => exact absurd hevent hreset

/-- Only a successful INIT sets the width. -/
theorem Engine.AfterCommand.w256_eq (h : e.AfterCommand k i e')
    (hinit : ∀ width, i = .init width → ¬ (width = 256 ∨ width = 512)) : e'.w256 = e.w256 := by
  cases h with
  | failed => rfl
  | started width hwidth => exact absurd hwidth (hinit width rfl)
  | tookBytes => rw [Engine.report_w256, Engine.takeBytes_w256]
  | finalized => rfl
  | cleared => rfl

theorem Engine.AfterEvent.w256_eq (h : e.AfterEvent c event e') (hstart : ¬ event.StartsInstance c.coreBase)
    (hreset : ¬ event.IsReset) : e'.w256 = e.w256 := by
  cases h with
  | kept => rfl
  | wroteData => rfl
  | rejected => rfl
  | executed v i _ hevent hdecode hafter =>
    refine hafter.w256_eq fun width hi hwidth => hstart ?_
    rw [hevent]
    exact startsInstance_of_decode (hi ▸ hdecode) hwidth
  | reset hevent => exact absurd hevent hreset

/-- An access that is no CMD write changes at most DATA. -/
theorem Engine.AfterEvent.eq_of_ne_commandWrite (h : e.AfterEvent c event e')
    (hcommand : ∀ v, event ≠ commandWrite c.coreBase v) (hreset : ¬ event.IsReset) :
    e' = { e with data := e'.data } := by
  cases h with
  | kept => rfl
  | wroteData => rfl
  | rejected v hevent => exact absurd hevent (hcommand v)
  | executed v _ _ hevent => exact absurd hevent (hcommand v)
  | reset hevent => exact absurd hevent hreset

/-- A report adds a bit to STICKY and removes none. -/
theorem Engine.report_sticky_and (e : Engine) (code : OutcomeCode) :
    (e.report code).sticky &&& e.sticky = e.sticky :=
  or_and_self_left e.sticky code.stickyBit

theorem Engine.AfterCommand.sticky_and (h : e.AfterCommand k i e') (hi : i ≠ .clrerr) :
    e'.sticky &&& e.sticky = e.sticky := by
  cases h with
  | failed => exact e.report_sticky_and _
  | started => exact e.report_sticky_and .ok
  | tookBytes => rw [Engine.report_sticky, stickyAfter_ok, Engine.takeBytes_sticky, BitVec.and_self]
  | finalized => exact e.report_sticky_and .ok
  | cleared => exact absurd rfl hi

theorem Engine.AfterEvent.sticky_and (h : e.AfterEvent c event e') (hreset : ¬ event.IsReset)
    (hclear : event ≠ commandWrite c.coreBase (encode .clrerr)) : e'.sticky &&& e.sticky = e.sticky := by
  cases h with
  | kept => exact BitVec.and_self
  | wroteData => exact BitVec.and_self
  | rejected => exact e.report_sticky_and _
  | executed v i _ hevent hdecode hafter =>
    refine hafter.sticky_and fun hi => hclear ?_
    rw [hevent, ← encode_of_decode hdecode, hi]
  | reset hevent => exact absurd hevent hreset
end

/-- Settles O32: the effects that touch the hash need ACTIVE, a successful INIT or a reset. -/
theorem finalizedInstanceIsFrozen : Obligations.FinalizedInstanceIsFrozen := by
  unfold Obligations.FinalizedInstanceIsFrozen
  intro s event rest hphase hp hstart hreset
  obtain ⟨t, ht, _, hafter⟩ := step_afterEvent s event rest hp
  refine ⟨t, ht, ?_⟩
  rw [hafter.sameInstance hphase hstart hreset]
  exact ⟨hphase, rfl, rfl, rfl, rfl, rfl, rfl, digestWord_congr rfl rfl rfl⟩

/-- Settles O33: W256 is set by a successful INIT and by a reset alone, and the block's other fields change by commands
and resets alone. -/
theorem widthFixedForLifeOfInstance : Obligations.WidthFixedForLifeOfInstance := by
  unfold Obligations.WidthFixedForLifeOfInstance
  intro s event rest hp hreset
  obtain ⟨t, ht, _, hafter⟩ := step_afterEvent s event rest hp
  exact ⟨t, ht, fun hstart => hafter.w256_eq hstart hreset,
    fun hcommand => hafter.eq_of_ne_commandWrite hcommand hreset⟩

/-- Settles O34: a report only adds a bit, and CLRERR, whose one word is `4`, is the only command that clears one. -/
theorem stickyBitsStaySet : Obligations.StickyBitsStaySet := by
  unfold Obligations.StickyBitsStaySet
  intro s event rest hp hreset hclear
  obtain ⟨t, ht, _, hafter⟩ := step_afterEvent s event rest hp
  exact ⟨t, ht, hafter.sticky_and hreset hclear⟩

/-! ## The frame of BUFD -/

theorem getElem_overwrite_of_le (bufd : Vector Byte 63) (bytes : List Byte) (j : Fin 63)
    (h : bytes.length ≤ j.val) : (overwrite bufd bytes)[j] = bufd[j] := by
  simp [overwrite, List.getElem?_eq_none h]

/-- What stands in BUFD at or beyond the new BUFLEN is as before the bytes were stored. -/
theorem Engine.setBuf_bufd_of_le (e : Engine) {bytes : List Byte} (hlen : bytes.length ≤ 63) (j : Fin 63)
    (h : (e.setBuf bytes).buflen.toNat ≤ j.val) : (e.setBuf bytes).bufd[j] = e.bufd[j] := by
  rw [Engine.setBuf_buflen, BitVec.toNat_ofNat, Nat.mod_eq_of_lt (by omega)] at h
  exact getElem_overwrite_of_le e.bufd bytes j h

theorem Engine.takeBytes_bufd_of_le (k : Dataset) {d : List Byte} (e : Engine) (hd : d.length ≤ 8) (j : Fin 63)
    (h : (e.takeBytes k d).buflen.toNat ≤ j.val) : (e.takeBytes k d).bufd[j] = e.bufd[j] := by
  obtain ⟨bytes, hlen, hbytes | ⟨m, hbytes⟩⟩ := e.takeBytes_cases k d hd
  · rw [hbytes] at h ⊢
    exact e.setBuf_bufd_of_le hlen j h
  · rw [hbytes] at h ⊢
    exact (e.absorbBlock k m).setBuf_bufd_of_le hlen j h

section
variable {k : Dataset} {e e' : Engine} {i : Instr}

theorem Engine.AfterCommand.bufd_eq (h : e.AfterCommand k i e') (hi : ∀ n, i ≠ .ingest n) : e'.bufd = e.bufd := by
  cases h with
  | failed => rfl
  | started => rfl
  | tookBytes count => exact absurd rfl (hi count)
  | finalized => rfl
  | cleared => rfl

theorem Engine.AfterCommand.bufd_of_le {n : BitVec 4} (h : e.AfterCommand k (.ingest n) e') (j : Fin 63)
    (hj : e'.buflen.toNat ≤ j.val) : e'.bufd[j] = e.bufd[j] := by
  cases h with
  | failed => rfl
  | tookBytes _ hcount => exact e.takeBytes_bufd_of_le k (dataBytes_length_le hcount) j hj
end

/-- Settles O14: INGEST alone stores bytes, at most 63 of them, and BUFLEN then counts them. -/
theorem onlyIngestWritesBufferStorage : Obligations.OnlyIngestWritesBufferStorage := by
  unfold Obligations.OnlyIngestWritesBufferStorage
  constructor
  · intro i s hi
    obtain ⟨e, he, hafter⟩ := exec_afterCommand i s
    exact ⟨_, he, hafter.bufd_eq hi⟩
  · intro n s
    obtain ⟨e, he, hafter⟩ := exec_afterCommand (.ingest n) s
    exact ⟨_, he, hafter.bufd_of_le⟩

end Sys2Proof.Machine

/-! The registers of the window: reads and refused writes, the fields of STATUS, the bytes of DIGEST, and what they show
after reset. -/

namespace Sys2Proof.Machine

/-! ## Accesses to a register -/

theorem windowReg_lt {off : Nat} {r : WindowReg} (h : windowReg off = some r) : off < 128 := by
  rcases windowReg_cases h with ⟨rfl, _⟩ | ⟨rfl, _⟩ | ⟨rfl, _⟩ | ⟨j, rfl, _⟩ <;> omega

section
variable {s : State} {rest : List BusEvent} {off : Nat} {r : WindowReg} (hr : windowReg off = some r)
include hr

/-- An accepted read returns the register and changes nothing (20_memory.md rule R32). -/
theorem step_read_register (hp : s.pending = .read (s.config.coreBase + off) 8 :: rest) :
    step s = .next { s with pending := rest, responses := s.responses ++ [.readOkay (readReg s.engine r)] } := by
  rw [step_event s _ rest hp]
  simp [perform, windowReg_lt hr, readWindow, hr, State.respond]

/-- A write to a register other than CMD and DATA is a bus error and changes nothing (20_memory.md rule R33). -/
theorem step_write_readOnly {v : Reg64} (hcmd : r ≠ .cmd) (hdata : r ≠ .data)
    (hp : s.pending = .write (s.config.coreBase + off) 8 v :: rest) :
    step s = .next { s with pending := rest, responses := s.responses ++ [.writeBusErr] } := by
  rw [step_event s _ rest hp]
  cases r with
  | cmd => exact absurd rfl hcmd
  | data => exact absurd rfl hdata
  | status => simp [perform, windowReg_lt hr, writeWindow, hr, State.respond]
  | digest j => simp [perform, windowReg_lt hr, writeWindow, hr, State.respond]
end

theorem windowReg_status : windowReg 0x10 = some .status := by decide

/-! ## The fields of STATUS (10_state.md rule R24) -/

/-- A field placed at bit `p` is read back at bit `p`. -/
theorem extractLsb'_placed_same {n : Nat} (x : BitVec n) (p : Nat) (h : p + n ≤ 64) :
    (x.setWidth 64 <<< p).extractLsb' p n = x := by
  ext j hj
  simp [BitVec.getLsbD_eq_getElem hj, show p + j < 64 by omega]

/-- A field placed at bit `p` leaves the bits before it and after it 0. -/
theorem extractLsb'_placed_disjoint {n : Nat} (x : BitVec n) (p q m : Nat) (h : q + m ≤ p ∨ p + n ≤ q) :
    (x.setWidth 64 <<< p).extractLsb' q m = 0#m := by
  ext j hj
  rcases h with h | h
  · simp [show q + j < p by omega]
  · simp [BitVec.getLsbD_of_ge x (q + j - p) (by omega)]

/-- STATUS as five fields, each placed at its bit. -/
theorem statusWord_placed (e : Engine) : statusWord e =
    e.phase.code.setWidth 64 <<< 0 ||| (BitVec.ofBool e.w256).setWidth 64 <<< 2
      ||| e.lasterr.code.setWidth 64 <<< 4 ||| e.sticky.setWidth 64 <<< 8 ||| e.buflen.setWidth 64 <<< 16 := by
  rw [BitVec.shiftLeft_zero, statusWord]

/-- Settles O22: STATUS is a read-only register, and its fields are placed at disjoint bits. -/
theorem statusFields : Obligations.StatusFields := by
  unfold Obligations.StatusFields
  refine ⟨fun s rest hp => step_read_register windowReg_status hp,
    fun s rest v hp => step_write_readOnly windowReg_status nofun nofun hp, fun e => ?_⟩
  refine ⟨?phase, ?w256, ?_, ?lasterr, ?_, ?sticky, ?_, ?buflen, ?_⟩
  all_goals
    simp (disch := omega) only [statusWord_placed, BitVec.extractLsb'_or, extractLsb'_placed_same,
      extractLsb'_placed_disjoint, BitVec.or_zero, BitVec.zero_or, BitVec.ofNat_eq_ofNat]
  case phase => rfl
  case lasterr => rfl

/-! ## The bytes of DIGEST (10_state.md rule R25) -/

theorem extractLsb'_intBE8 (w : Word) (i : Fin 8) : (intBE8 w).extractLsb' (56 - 8 * i.val) 8 = w[i] := by
  have hbyte : (wordBE (intBE8 w))[i] = (intBE8 w).extractLsb' (8 * (7 - i.val)) 8 := by simp [wordBE]
  rw [← show 8 * (7 - i.val) = 56 - 8 * i.val by omega, ← hbyte, wordBE_intBE8]

theorem digestWord_of_shown {e : Engine} {j : Fin 8} (hphase : e.phase = .finalized)
    (hj : e.w256 = false ∨ j.val ≤ 3) : digestWord e j = intBE8 (wordAt e.h j) := by
  rw [digestWord, if_pos ⟨hphase, hj⟩]

theorem digestWord_of_narrow {e : Engine} {j : Fin 8} (hw256 : e.w256 = true) (hj : 4 ≤ j.val) :
    digestWord e j = 0 := by
  rw [digestWord, if_neg]
  rintro ⟨_, hw | hlow⟩
  · simp [hw256] at hw
  · omega

/-- Settles O23: DIGEST `j` is a read-only register that holds word `j` of `h`, most significant byte first, when it is
shown. -/
theorem digestRegistersShowH : Obligations.DigestRegistersShowH := by
  unfold Obligations.DigestRegistersShowH
  refine ⟨fun s rest j hp => step_read_register (windowReg_digest j) hp,
    fun s rest j v hp => step_write_readOnly (windowReg_digest j) nofun nofun hp,
    fun e j i => ⟨fun hphase hj => ?_, fun _ hw256 hj => digestWord_of_narrow hw256 hj,
      fun hphase => digestWord_of_ne_finalized hphase j⟩⟩
  rw [digestWord_of_shown hphase hj, extractLsb'_intBE8]
  simp [wordAt]

/-! ## After reset -/

/-- Settles O25: the values are those of `Engine.reset`, and outside FINALIZED no DIGEST register is shown. -/
theorem resetValues : Obligations.ResetValues := by
  unfold Obligations.ResetValues
  exact ⟨rfl, rfl, rfl, rfl, rfl, rfl, rfl, rfl, rfl, rfl, rfl, digestWord_of_ne_finalized nofun⟩

/-- The substitution map of the reference dataset takes every byte once, and its two initial vectors are as `WF(K)`
asks. -/
theorem referenceDataset_wf : referenceDataset.Wf := by decide +kernel

/-- Settles O29: the reset block meets the two clauses about the block, and the reference dataset is well formed. -/
theorem resetMeetsInvariant : Obligations.ResetMeetsInvariant := by
  unfold Obligations.ResetMeetsInvariant
  exact ⟨⟨referenceDataset_wf, rfl⟩, Engine.recordsOutcome_reset, Engine.phaseCoherent_reset⟩

end Sys2Proof.Machine

/-! The accesses of the host (20_memory.md): what a step on a read or a write does at an offset of the window, outside the
window, and on CMD, and the order of the bytes in DATA. -/

namespace Sys2Proof.Machine

/-! ## Offsets that name no register -/

theorem windowReg_cmd : windowReg 0x00 = some .cmd := by decide

theorem windowReg_data : windowReg 0x08 = some .data := by decide

theorem windowReg_eq_none {off : Nat} (hcmd : off ≠ 0x00) (hdata : off ≠ 0x08) (hstatus : off ≠ 0x10)
    (hdigest : ∀ j : Fin 8, off ≠ 0x40 + 8 * j.val) : windowReg off = none := by
  rw [Option.eq_none_iff_forall_ne_some]
  intro r hr
  rcases windowReg_cases hr with ⟨h, _⟩ | ⟨h, _⟩ | ⟨h, _⟩ | ⟨j, h, _⟩
  · exact hcmd h
  · exact hdata h
  · exact hstatus h
  · exact hdigest j h

/-- A misaligned or a reserved offset (20_memory.md rule R34). -/
theorem windowReg_reserved {off : Nat} (h : off % 8 ≠ 0 ∨ (0x18 ≤ off ∧ off < 0x40)) : windowReg off = none :=
  windowReg_eq_none (by omega) (by omega) (by omega) fun j => by omega

/-! ## Steps on an access in the window -/

section
variable {s : State} {rest : List BusEvent} {off size : Nat} {v : Reg64} (hoff : off < 0x80)
include hoff

theorem step_read_window (hp : s.pending = .read (s.config.coreBase + off) size :: rest) :
    step s = readWindow off size { s with pending := rest } := by
  rw [step_event s _ rest hp]
  simp [perform, hoff]

theorem step_write_window (hp : s.pending = .write (s.config.coreBase + off) size v :: rest) :
    step s = writeWindow off size v { s with pending := rest } := by
  rw [step_event s _ rest hp]
  simp [perform, hoff]

/-- A read that is not accepted gets BUSERR with data 0 and changes nothing (20_memory.md rule R34). -/
theorem step_read_busErr (hbad : size ≠ 8 ∨ windowReg off = none)
    (hp : s.pending = .read (s.config.coreBase + off) size :: rest) :
    step s = .next { s with pending := rest, responses := s.responses ++ [.readBusErr 0] } := by
  rw [step_read_window hoff hp]
  rcases readWindow_cases off size { s with pending := rest } with ⟨r, hsize, hr, _⟩ | ⟨_, h⟩
  · simp [hsize, hr] at hbad
  · exact h

/-- A write to anything but CMD and DATA gets BUSERR and changes nothing (20_memory.md rules R33 and R34). -/
theorem step_write_busErr (hbad : size ≠ 8 ∨ (off ≠ 0x00 ∧ off ≠ 0x08))
    (hp : s.pending = .write (s.config.coreBase + off) size v :: rest) :
    step s = .next { s with pending := rest, responses := s.responses ++ [.writeBusErr] } := by
  rw [step_write_window hoff hp]
  rcases writeWindow_cases off size v { s with pending := rest } with ⟨_, _, _⟩ | ⟨_, _, _⟩ | ⟨_, h⟩
  · omega
  · omega
  · exact h
end

/-- Settles O18: each offset of the first clause names its register, and no other offset names one. -/
theorem acceptedReadReturnsRegister : Obligations.AcceptedReadReturnsRegister := by
  unfold Obligations.AcceptedReadReturnsRegister
  constructor
  · rintro s rest off value hp (⟨rfl, rfl⟩ | ⟨rfl, rfl⟩ | ⟨rfl, rfl⟩ | ⟨j, rfl, rfl⟩)
    · exact step_read_register windowReg_cmd hp
    · exact step_read_register windowReg_data hp
    · exact step_read_register windowReg_status hp
    · exact step_read_register (windowReg_digest j) hp
  · intro s rest off hoff hp hcmd hdata hstatus hdigest
    exact step_read_busErr hoff (.inr (windowReg_eq_none hcmd hdata hstatus hdigest)) hp

/-- Settles O19: the word written to CMD changes nothing but the block, so the OKAY follows the answers received
before. -/
theorem acceptedWriteStoresDataOrExecutes : Obligations.AcceptedWriteStoresDataOrExecutes := by
  unfold Obligations.AcceptedWriteStoresDataOrExecutes
  refine ⟨fun s rest v hp => step_writeData s v rest hp, fun s rest v hp => ?_,
    fun s rest off v hoff hp hcmd hdata => step_write_busErr hoff (.inr ⟨hcmd, hdata⟩) hp⟩
  obtain ⟨f, hf⟩ := executeWord_mapEngine v { s with pending := rest }
  exact ⟨_, hf, step_commandWrite s _ v rest hp hf⟩

/-- Settles O20: a misaligned or reserved offset names no register, and CMD and DATA, the only registers that a write is
accepted at, are the aligned offsets below 0x10. -/
theorem busErrorChangesNoState : Obligations.BusErrorChangesNoState := by
  unfold Obligations.BusErrorChangesNoState
  constructor
  · intro s rest off size hoff hbad hp
    exact step_read_busErr hoff (hbad.imp_right windowReg_reserved) hp
  · intro s rest off size v hoff hbad hp
    exact step_write_busErr hoff (by omega) hp

/-! ## Steps on an access outside the window -/

/-- The platform answers an access outside the window (20_memory.md rule R31; log entry 5). -/
theorem step_outside_window {s : State} {rest : List BusEvent} {addr size : Nat} {v : Reg64}
    (haddr : addr < s.config.coreBase ∨ s.config.coreBase + 0x80 ≤ addr)
    (hp : s.pending = .read addr size :: rest ∨ s.pending = .write addr size v :: rest) :
    step s = .next ({ s with pending := rest } : State).respondPlatform := by
  have hout := windowOffset_out s.config.coreBase addr haddr
  rcases hp with hp | hp
  · rw [step_event s _ rest hp]
    simp [perform, hout]
  · rw [step_event s _ rest hp]
    simp [perform, hout]

/-- Settles O21: the answer is the next free value of the platform. -/
theorem accessOutsideWindowLeavesBlock : Obligations.AccessOutsideWindowLeavesBlock := by
  unfold Obligations.AccessOutsideWindowLeavesBlock
  intro s rest addr size v haddr hp
  exact ⟨_, _, step_outside_window haddr hp, rfl, rfl, rfl, rfl⟩

/-! ## Commands written to CMD -/

/-- Settles O7: a word that decodes executes as its command, and every command answers a next state. -/
theorem stepRunsDecodedCommand : Obligations.StepRunsDecodedCommand := by
  unfold Obligations.StepRunsDecodedCommand
  intro s rest v i hp hdecode
  obtain ⟨f, hf⟩ := exec_mapEngine i { s with pending := rest }
  exact ⟨_, hf, step_commandWrite s _ v rest hp ((executeWord_of_decode v i _ hdecode).trans hf)⟩

/-! ## The lanes of DATA (20_memory.md rule R36) -/

theorem getLsbD_dataLane (v : Reg64) (k : Nat) {b : Nat} (hb : b < 8) :
    (dataLane v k).getLsbD b = v.getLsbD (56 - 8 * k + b) := by
  simp [dataLane, hb]

theorem getD_dataBytes (v : Reg64) {n k : Nat} (hk : k < n) : (dataBytes v n).getD k 0 = dataLane v k := by
  simp [dataBytes, hk]

/-- All eight lanes are the bytes of DATA, most significant first. -/
theorem dataBytes_eight (v : Reg64) : dataBytes v 8 = (wordBE v).toList := by
  have hlane : ∀ i, 56 - 8 * i = 8 * (7 - i) := by omega
  apply List.ext_getElem
  · simp [dataBytes]
  · intro i _ _
    simp [dataBytes, dataLane, wordBE, hlane]

theorem natBE_dataBytes_eight (v : Reg64) : natBE (dataBytes v 8) = v.toNat := by
  rw [dataBytes_eight, ← toNat_intBE8, intBE8_wordBE]

/-- The first `n` lanes read the bits of DATA from bit `64 - 8n` up, and no others. -/
theorem dataBytes_congr {v v' : Reg64} {n : Nat} (hn : n ≤ 8)
    (hbits : ∀ b, 64 - 8 * n ≤ b → b < 64 → v.getLsbD b = v'.getLsbD b) : dataBytes v n = dataBytes v' n := by
  refine List.map_congr_left fun k hk => BitVec.eq_of_getLsbD_eq fun b hb => ?_
  have hkn : k < n := List.mem_range.mp hk
  rw [getLsbD_dataLane v k hb, getLsbD_dataLane v' k hb]
  exact hbits _ (by omega) (by omega)

/-- Settles O24: byte `k` is lane `k`, the eight lanes are the big-endian bytes of DATA, and lanes beyond COUNT are not
read. -/
theorem dataLaneOrder : Obligations.DataLaneOrder := by
  unfold Obligations.DataLaneOrder
  refine ⟨fun v n k b _ hk hb => ?_, natBE_dataBytes_eight, fun v v' n hn hbits => dataBytes_congr hn hbits⟩
  rw [getD_dataBytes v hk, getLsbD_dataLane v k hb]

end Sys2Proof.Machine

/-! The command word by its fields (30_encoding.md sections 1 to 4): a word is its six fields, a word that decodes is the
encoding of a well-formed command, and masks, legality and illegality are read off field by field. -/

namespace Sys2Proof.Machine

open Laws.EncodedLegal in
/-- A well-formed command is read back from its word. -/
theorem decode_encode {i : Instr} (h : i.wf = true) : decode (encode i) = .ok i := by
  cases i with
  | init width =>
    simp [decode, encode, opc_commandWord, rsv0_commandWord, rsv1_commandWord, rsv2_commandWord,
      countField_commandWord, widthField_commandWord]
  | ingest count =>
    have hcount : count ≤ 8#4 := by simpa [Instr.wf, BitVec.le_def] using h
    simp [decode, encode, opc_commandWord, rsv0_commandWord, rsv1_commandWord, rsv2_commandWord,
      countField_commandWord, widthField_commandWord, hcount]
  | finalize => rfl
  | clrerr => rfl

/-- The decoder answers INGEST only with a count it has checked. -/
theorem wf_of_decode {v : Reg64} {i : Instr} (h : decode v = .ok i) : i.wf = true := by
  cases i with
  | init => rfl
  | ingest count =>
    rw [decode] at h
    split_ifs at h with _ _ _ _ _ hcount <;> cases h
    simpa [Instr.wf, BitVec.le_def] using hcount
  | finalize => rfl
  | clrerr => rfl

/-- Settles O1: the fields of a command word are read back, and the decoder accepts no word but those of well-formed
commands. -/
theorem decodeAndEncodeAgree : Obligations.DecodeAndEncodeAgree := by
  unfold Obligations.DecodeAndEncodeAgree
  exact ⟨fun _ h => decode_encode h, fun _ _ h => ⟨wf_of_decode h, encode_of_decode h⟩⟩

theorem decode_eq_ok_iff {v : Reg64} {i : Instr} : decode v = .ok i ↔ i.wf = true ∧ encode i = v := by
  constructor
  · intro h
    exact ⟨wf_of_decode h, encode_of_decode h⟩
  · rintro ⟨hwf, rfl⟩
    exact decode_encode hwf

/-! ## Equality of words, field by field -/

/-- Two words with the same fields are the same word. -/
theorem eq_iff_fields {u v : Reg64} : u = v ↔
    opc u = opc v ∧ rsv0 u = rsv0 v ∧ countField u = countField v ∧ rsv1 u = rsv1 v ∧
      widthField u = widthField v ∧ rsv2 u = rsv2 v := by
  constructor
  · rintro rfl
    exact ⟨rfl, rfl, rfl, rfl, rfl, rfl⟩
  · rintro ⟨hopc, hrsv0, hcount, hrsv1, hwidth, hrsv2⟩
    apply BitVec.eq_of_getLsbD_eq
    intro j hj
    have hfield {start len : Nat} (h : u.extractLsb' start len = v.extractLsb' start len) (h₁ : start ≤ j)
        (h₂ : j < start + len) : u.getLsbD j = v.getLsbD j := by
      rw [getLsbD_eq_field u start len j h₁ h₂, h, ← getLsbD_eq_field v start len j h₁ h₂]
    have hj : j < 4 ∨ (4 ≤ j ∧ j < 8) ∨ (8 ≤ j ∧ j < 12) ∨ (12 ≤ j ∧ j < 16) ∨ (16 ≤ j ∧ j < 32) ∨ 32 ≤ j := by
      omega
    rcases hj with h | h | h | h | h | h
    · exact hfield hopc (by omega) (by omega)
    · exact hfield hrsv0 (by omega) (by omega)
    · exact hfield hcount (by omega) (by omega)
    · exact hfield hrsv1 (by omega) (by omega)
    · exact hfield hwidth (by omega) (by omega)
    · exact hfield hrsv2 (by omega) (by omega)

theorem and_eq_iff_fields {v mask u : Reg64} : v &&& mask = u ↔
    opc v &&& opc mask = opc u ∧ rsv0 v &&& rsv0 mask = rsv0 u ∧ countField v &&& countField mask = countField u ∧
      rsv1 v &&& rsv1 mask = rsv1 u ∧ widthField v &&& widthField mask = widthField u ∧
      rsv2 v &&& rsv2 mask = rsv2 u := by
  simp only [eq_iff_fields, opc, rsv0, countField, rsv1, widthField, rsv2, BitVec.extractLsb'_and]

open Laws.EncodedLegal in
theorem commandWord_eq_iff {width : BitVec 16} {count opcode : BitVec 4} {v : Reg64} :
    commandWord width count opcode = v ↔
      opc v = opcode ∧ rsv0 v = 0 ∧ countField v = count ∧ rsv1 v = 0 ∧ widthField v = width ∧ rsv2 v = 0 := by
  rw [eq_comm, eq_iff_fields, opc_commandWord, rsv0_commandWord, countField_commandWord, rsv1_commandWord,
    widthField_commandWord, rsv2_commandWord]

/-! ## The rows of the opcode map (rule R53) -/

theorem and_ones4 (x : BitVec 4) : x &&& 15#4 = x := BitVec.and_allOnes

theorem and_ones32 (x : BitVec 32) : x &&& 4294967295#32 = x := BitVec.and_allOnes

theorem and_ones16 (x : BitVec 16) : x &&& 65535#16 = x := BitVec.and_allOnes

/-- The mask of INIT leaves out WIDTH. -/
theorem and_initMask_eq_iff (v : Reg64) : v &&& 0xFFFFFFFF0000FFFF = 0x0000000000000001 ↔
    opc v = 1 ∧ rsv0 v = 0 ∧ countField v = 0 ∧ rsv1 v = 0 ∧ rsv2 v = 0 := by
  rw [and_eq_iff_fields]
  simp [opc, rsv0, countField, rsv1, widthField, rsv2, and_ones4, and_ones32]

/-- The mask of INGEST leaves out COUNT. -/
theorem and_ingestMask_eq_iff (v : Reg64) : v &&& 0xFFFFFFFFFFFFF0FF = 0x0000000000000002 ↔
    opc v = 2 ∧ rsv0 v = 0 ∧ rsv1 v = 0 ∧ widthField v = 0 ∧ rsv2 v = 0 := by
  rw [and_eq_iff_fields]
  simp [opc, rsv0, countField, rsv1, widthField, rsv2, and_ones4, and_ones16, and_ones32]

theorem decode_init_iff {v : Reg64} {width : BitVec 16} : decode v = .ok (.init width) ↔
    v &&& 0xFFFFFFFF0000FFFF = 0x0000000000000001 ∧ widthField v = width := by
  rw [decode_eq_ok_iff, encode, commandWord_eq_iff, and_initMask_eq_iff]
  simp only [Instr.wf]
  tauto

theorem decode_ingest_iff {v : Reg64} {count : BitVec 4} : decode v = .ok (.ingest count) ↔
    v &&& 0xFFFFFFFFFFFFF0FF = 0x0000000000000002 ∧ countField v = count ∧ count.toNat ≤ 8 := by
  rw [decode_eq_ok_iff, encode, commandWord_eq_iff, and_ingestMask_eq_iff]
  simp only [Instr.wf, decide_eq_true_eq]
  tauto

theorem decode_finalize_iff {v : Reg64} : decode v = .ok .finalize ↔ v = 0x0000000000000003 := by
  rw [decode_eq_ok_iff, show encode .finalize = 0x0000000000000003 from rfl]
  simp [Instr.wf, eq_comm]

theorem decode_clrerr_iff {v : Reg64} : decode v = .ok .clrerr ↔ v = 0x0000000000000004 := by
  rw [decode_eq_ok_iff, show encode .clrerr = 0x0000000000000004 from rfl]
  simp [Instr.wf, eq_comm]

/-! ## Legal and illegal words (rules R54 and R55) -/

theorem legal_encode {i : Instr} (h : i.wf = true) : legal (encode i) = true := by
  cases i with
  | init width => exact Laws.EncodedLegal.init width h
  | ingest count => exact Laws.EncodedLegal.ingest count h
  | finalize => exact Laws.EncodedLegal.finalize h
  | clrerr => exact Laws.EncodedLegal.clrerr h

/-- `legal` clause by clause, as a proposition. -/
theorem legal_iff_fields {v : Reg64} : legal v = true ↔
    (opc v).toNat ∈ [1, 2, 3, 4] ∧ rsv0 v = 0 ∧ rsv1 v = 0 ∧ rsv2 v = 0 ∧ (opc v = 2 ∨ countField v = 0) ∧
      (opc v = 1 ∨ widthField v = 0) ∧ (opc v ≠ 2 ∨ (countField v).toNat ≤ 8) := by
  simp [legal, BitVec.toNat_eq, BitVec.le_def, and_assoc, or_assoc]

/-- The legality check accepts exactly what the decoder does. -/
theorem legal_iff_decode {v : Reg64} : legal v = true ↔ ∃ i, decode v = .ok i := by
  constructor
  · intro h
    obtain ⟨hopc, hrsv0, hrsv1, hrsv2, hcount, hwidth, hsmall⟩ := legal_iff_fields.mp h
    have hopc : opc v = 1 ∨ opc v = 2 ∨ opc v = 3 ∨ opc v = 4 := by simpa [BitVec.toNat_eq] using hopc
    rcases hopc with h | h | h | h <;>
      simp only [h, BitVec.reduceEq, ne_eq, true_or, false_or, not_true, not_false_eq_true] at hcount hwidth hsmall
    · exact ⟨.init _, decode_eq_ok_iff.mpr ⟨rfl, commandWord_eq_iff.mpr ⟨h, hrsv0, hcount, hrsv1, rfl, hrsv2⟩⟩⟩
    · exact ⟨.ingest _, decode_eq_ok_iff.mpr
        ⟨decide_eq_true hsmall, commandWord_eq_iff.mpr ⟨h, hrsv0, rfl, hrsv1, hwidth, hrsv2⟩⟩⟩
    · exact ⟨.finalize, decode_eq_ok_iff.mpr ⟨rfl, commandWord_eq_iff.mpr ⟨h, hrsv0, hcount, hrsv1, hwidth, hrsv2⟩⟩⟩
    · exact ⟨.clrerr, decode_eq_ok_iff.mpr ⟨rfl, commandWord_eq_iff.mpr ⟨h, hrsv0, hcount, hrsv1, hwidth, hrsv2⟩⟩⟩
  · rintro ⟨i, h⟩
    rw [← encode_of_decode h]
    exact legal_encode (wf_of_decode h)

theorem decode_error_iff_legal {v : Reg64} : (∃ err, decode v = .error err) ↔ legal v = false := by
  rw [← Bool.not_eq_true, legal_iff_decode]
  cases decode v <;> simp

/-- The list of rule R55: each clause of the legality check denied. -/
theorem decode_error_iff_fields {v : Reg64} : (∃ err, decode v = .error err) ↔
    (opc v).toNat = 0 ∨ 5 ≤ (opc v).toNat ∨ rsv0 v ≠ 0 ∨ rsv1 v ≠ 0 ∨ rsv2 v ≠ 0 ∨
      (opc v ≠ 2 ∧ countField v ≠ 0) ∨ (opc v ≠ 1 ∧ widthField v ≠ 0) ∨
      (opc v = 2 ∧ 9 ≤ (countField v).toNat) := by
  have hopc : (opc v).toNat ∈ [1, 2, 3, 4] ↔ ¬ ((opc v).toNat = 0 ∨ 5 ≤ (opc v).toNat) := by
    simp only [List.mem_cons, List.not_mem_nil, or_false]
    omega
  have hcount : (countField v).toNat ≤ 8 ↔ ¬ 9 ≤ (countField v).toNat := by omega
  rw [decode_error_iff_legal, ← Bool.not_eq_true, legal_iff_fields, hopc, hcount]
  tauto

/-- Settles O2: each row by its mask, and the undefined opcodes are on the list of illegal words. -/
theorem opcodeMapByMaskAndMatch : Obligations.OpcodeMapByMaskAndMatch := by
  unfold Obligations.OpcodeMapByMaskAndMatch
  refine ⟨fun _ _ => decode_init_iff, fun _ _ => decode_ingest_iff, fun _ => decode_finalize_iff,
    fun _ => decode_clrerr_iff, fun v hopc => ?_⟩
  exact decode_error_iff_fields.mpr (hopc.imp_right .inl)

/-- Settles O3: the condition is `legal` written out, and INIT checks its width when it executes. -/
theorem legalWordsAreTheDecodedOnes : Obligations.LegalWordsAreTheDecodedOnes := by
  unfold Obligations.LegalWordsAreTheDecodedOnes
  refine ⟨fun v => legal_iff_fields.symm.trans legal_iff_decode, fun w s => ⟨legal_encode rfl, fun h256 h512 => ?_⟩⟩
  rw [executeWord_of_decode _ _ s (decode_encode rfl)]
  rcases execInit_cases w s with ⟨hwidth, _⟩ | ⟨_, h⟩
  · exact absurd hwidth (not_or_intro h256 h512)
  · exact h

/-- Settles O4: the list denies the legality check clause by clause, and a word that does not decode is reported and no
more. -/
theorem illegalWordReportsAndDoesNothingElse : Obligations.IllegalWordReportsAndDoesNothingElse := by
  unfold Obligations.IllegalWordReportsAndDoesNothingElse
  refine ⟨fun v => decode_error_iff_fields, ?_⟩
  rintro v s rest ⟨err, herr⟩ hp
  have hexec : executeWord v { s with pending := rest } =
      .next (({ s with pending := rest } : State).report .illegalCommand) := by rw [executeWord, herr]
  exact step_commandWrite s _ v rest hp hexec

/-- Settles O5: the decoder evaluated on each word. -/
theorem writtenWordsDecode : Obligations.WrittenWordsDecode := by
  unfold Obligations.WrittenWordsDecode
  decide

end Sys2Proof.Machine

/-! The letter case of a line (30_encoding.md rule R56; log entry 9): lower case is a projection that neither makes nor
removes a separator of words. -/

namespace Sys2Proof.Machine

theorem lowerChar_eq_toLower (c : Char) : lowerChar c = c.toLower := by
  have hupper : ('A'.toNat ≤ c.toNat ∧ c.toNat ≤ 'Z'.toNat) ↔ c.isUpper = true := by
    simp [Char.isUpper, UInt32.le_iff_toNat_le]
  by_cases h : c.isUpper = true
  · rw [lowerChar, if_pos (hupper.mpr h), Char.toLower_eq_of_isUpper h]
  · rw [lowerChar, if_neg (mt hupper.mp h), Char.toLower_eq_of_not_isUpper h]

@[simp] theorem lowerChar_lowerChar (c : Char) : lowerChar (lowerChar c) = lowerChar c := by
  rw [lowerChar_eq_toLower, lowerChar_eq_toLower, Char.toLower_toLower_eq_toLower]

/-- Lower case moves letters among letters only. -/
theorem lowerChar_eq_iff_of_not_alpha {c d : Char} (hd : d.isAlpha = false) : lowerChar c = d ↔ c = d := by
  rw [lowerChar_eq_toLower]
  constructor
  · rintro rfl
    have hc : ¬ c.isUpper = true := by
      rw [Char.isAlpha_toLower_eq_isAlpha, Char.isAlpha, Bool.or_eq_false_iff] at hd
      simp [hd]
    exact (Char.toLower_eq_of_not_isUpper hc).symm
  · rintro rfl
    exact Char.toLower_eq_of_not_isUpper fun h => by simp [Char.isAlpha, h] at hd

/-- Cutting a line into words puts its letters in lower case anyway. -/
theorem splitWords_map_lowerChar (word line : List Char) :
    splitWords word (line.map lowerChar) = splitWords word line := by
  induction line generalizing word with
  | nil => rfl
  | cons c line ih =>
    have hblank : lowerChar c = ' ' ↔ c = ' ' := lowerChar_eq_iff_of_not_alpha rfl
    have hcomma : lowerChar c = ',' ↔ c = ',' := lowerChar_eq_iff_of_not_alpha rfl
    have htab : lowerChar c = '\t' ↔ c = '\t' := lowerChar_eq_iff_of_not_alpha rfl
    simp only [List.map_cons, splitWords, hblank, hcomma, htab, lowerChar_lowerChar, ih]

/-- Settles O6: the words of the line are the same words. -/
theorem assemblerIgnoresLetterCase : Obligations.AssemblerIgnoresLetterCase := by
  unfold Obligations.AssemblerIgnoresLetterCase
  intro line
  rw [parseLine, splitWords_map_lowerChar, parseLine]

end Sys2Proof.Machine

/-! The chunks of the pseudo-command ABSORB (30_encoding.md rule R58): they make up the byte string, and INGEST takes each
from the DATA value written for it. -/

namespace Sys2Proof.Machine

theorem flatten_chunksOf (bytes : List Byte) (count : Nat) :
    (chunksOf bytes count).flatten = bytes.take (8 * count) := by
  induction count generalizing bytes with
  | zero => simp [chunksOf]
  | succ count ih => rw [chunksOf, List.flatten_cons, ih, Nat.mul_succ, Nat.add_comm, List.take_add]

/-- No chunk is longer than 8 bytes, and none is empty when the bytes reach into the last one. -/
theorem length_of_mem_chunksOf {bytes c : List Byte} {count : Nat} (hlen : 8 * count < bytes.length + 8)
    (hc : c ∈ chunksOf bytes count) : 1 ≤ c.length ∧ c.length ≤ 8 := by
  induction count generalizing bytes with
  | zero => simp [chunksOf] at hc
  | succ count ih =>
    rw [chunksOf, List.mem_cons] at hc
    rcases hc with rfl | hc
    · rw [List.length_take]
      omega
    · by_cases hcount : count = 0
      · simp [hcount, chunksOf] at hc
      · exact ih (by rw [List.length_drop]; omega) hc

/-- The chunks of ABSORB. -/
theorem flatten_absorbChunks (bytes : List Byte) :
    (chunksOf bytes ((bytes.length + 7) / 8)).flatten = bytes := by
  rw [flatten_chunksOf, List.take_of_length_le (by omega)]

theorem length_of_mem_absorbChunks {bytes c : List Byte} (hc : c ∈ chunksOf bytes ((bytes.length + 7) / 8)) :
    1 ≤ c.length ∧ c.length ≤ 8 :=
  length_of_mem_chunksOf (by omega) hc

theorem dataBytes_eq_take (v : Reg64) {n : Nat} (hn : n ≤ 8) : dataBytes v n = (wordBE v).toList.take n := by
  rw [← dataBytes_eight, dataBytes, dataBytes, ← List.map_take, List.take_range, Nat.min_eq_left hn]

/-- The 64-bit value of 8 bytes lists them again. -/
theorem toList_wordBE_natBE {bytes : List Byte} (h : bytes.length = 8) :
    (wordBE (BitVec.ofNat 64 (natBE bytes))).toList = bytes := by
  have hfits : natBE bytes < 2 ^ 64 := (natBE_lt bytes).trans_eq (by rw [h, ← two_pow_eight_mul 8])
  rw [toList_wordBE, BitVec.toNat_ofNat, Nat.mod_eq_of_lt hfits, ← h, bytesBE_natBE]

/-- INGEST takes from DATA the chunk that DATA was written for. -/
theorem dataBytes_chunkData {c : List Byte} (hc : c.length ≤ 8) : dataBytes (chunkData c) c.length = c := by
  rw [dataBytes_eq_take _ hc, chunkData, toList_wordBE_natBE (by simp [hc]), List.take_left]

/-- Settles O48: the lanes of DATA are the chunk filled up with zero bytes, and the chunks follow one another. -/
theorem absorbDeliversItsBytes : Obligations.AbsorbDeliversItsBytes := by
  unfold Obligations.AbsorbDeliversItsBytes
  exact ⟨fun c hc => dataBytes_chunkData hc,
    fun b => ⟨flatten_absorbChunks b, fun c hc => length_of_mem_absorbChunks hc⟩⟩

end Sys2Proof.Machine

/-! Runs of accesses: what a list of accesses does to the block and what it is answered, as a relation that composes, and
that relation for the accesses a host program is made of (30_encoding.md rules R56 to R59). -/

namespace Sys2Proof.Machine

/-! ## The relation -/

/-- The state after the block has gone to `e`, with the events `rest` still to come and `answers` received. -/
def State.served (s : State) (rest : List BusEvent) (e : Engine) (answers : List Response) : State :=
  { s with engine := e, pending := rest, responses := s.responses ++ answers }

/-- The block answers `events` with `answers` and goes from `e` to `e'`, from every state it is in, one step for each
event. -/
def Serves (c : Config) (e : Engine) (events : List BusEvent) (e' : Engine) (answers : List Response) : Prop :=
  ∀ (s : State) (rest : List BusEvent), s.config = c → s.engine = e → s.pending = events ++ rest →
    Sys2Proof.core.run events.length s = .next (s.served rest e' answers)

section
variable {c : Config} {e e₁ e₂ : Engine} {events events₁ events₂ : List BusEvent} {answers₁ answers₂ : List Response}

theorem serves_nil : Serves c e [] e [] := by
  rintro s rest rfl rfl rfl
  simp [State.served]

theorem Serves.append (h₁ : Serves c e events₁ e₁ answers₁) (h₂ : Serves c e₁ events₂ e₂ answers₂) :
    Serves c e (events₁ ++ events₂) e₂ (answers₁ ++ answers₂) := by
  intro s rest hc he hp
  have hfirst := h₁ s (events₂ ++ rest) hc he (by rw [hp, List.append_assoc])
  rw [List.length_append, core_run_add _ _ _ _ hfirst, h₂ (s.served (events₂ ++ rest) e₁ answers₁) rest hc rfl rfl]
  simp [State.served]

theorem serves_of_step {event : BusEvent} {r : Response}
    (h : ∀ s rest, s.config = c → s.engine = e → s.pending = event :: rest →
      step s = .next (s.served rest e₁ [r])) : Serves c e [event] e₁ [r] := by
  intro s rest hc he hp
  exact core_run_succ 0 s _ (h s rest hc he hp)

/-! ## One access of a host program -/

/-- A write of the word of a command that runs to `e₁`. -/
theorem serves_command {i : Instr} (hwf : i.wf = true)
    (h : ∀ s : State, s.config = c → s.engine = e → exec i s = .next { s with engine := e₁ }) :
    Serves c e [commandWrite c.coreBase (encode i)] e₁ [.writeOkay] := by
  refine serves_of_step fun s rest hc he hp => ?_
  subst hc
  refine step_commandWrite s { s with engine := e₁, pending := rest } (encode i) rest hp ?_
  rw [executeWord_of_decode _ i _ (decode_encode hwf)]
  exact h { s with pending := rest } rfl he

theorem serves_writeData (v : Reg64) :
    Serves c e [.write (c.coreBase + 0x08) 8 v] (e.writeData v) [.writeOkay] := by
  refine serves_of_step fun s rest hc he hp => ?_
  subst hc he
  exact step_writeData s v rest hp

/-- INIT of a digest width is accepted in every phase (43_commands.md rule R101). -/
theorem serves_init (w : DigestWidth) : Serves c e [commandWrite c.coreBase (encode (initOf w))]
    ((Engine.start c.dataset (BitVec.ofNat 16 w.bits) e).report .ok) [.writeOkay] := by
  refine serves_command rfl fun s hc he => ?_
  subst hc he
  cases w with
  | w256 => rfl
  | w512 => rfl

/-- INGEST in ACTIVE (43_commands.md rule R102). -/
theorem serves_ingest {n : BitVec 4} (hn : n.toNat ≤ 8) (hphase : e.phase = .active) :
    Serves c e [commandWrite c.coreBase (encode (.ingest n))]
      ((e.takeBytes c.dataset (dataBytes e.data n.toNat)).report .ok) [.writeOkay] := by
  refine serves_command (decide_eq_true hn) fun s hc he => ?_
  subst hc he
  rcases execIngest_cases n s with ⟨hlarge, _⟩ | ⟨_, hidle, _⟩ | ⟨_, _, h⟩
  · omega
  · exact absurd hphase hidle
  · exact h

/-- What FINALIZE makes of an ACTIVE block (43_commands.md rule R104). -/
def Engine.finalize (k : Dataset) (e : Engine) : Engine :=
  Engine.report { (e.finalSequence k).emptyBuf with phase := .finalized } .ok

theorem serves_finalize (hphase : e.phase = .active) :
    Serves c e [commandWrite c.coreBase (encode .finalize)] (e.finalize c.dataset) [.writeOkay] := by
  refine serves_command rfl fun s hc he => ?_
  subst hc he
  rcases execFinalize_cases s with ⟨hidle, _⟩ | ⟨_, h⟩
  · exact absurd hphase hidle
  · exact h

/-- Reads of DIGEST registers, in any order, return them and change nothing. -/
theorem serves_readDigests (js : List (Fin 8)) :
    Serves c e (js.map fun j => .read (c.coreBase + 0x40 + 8 * j.val) 8) e
      (js.map fun j => .readOkay (digestWord e j)) := by
  induction js with
  | nil => exact serves_nil
  | cons j js ih =>
    refine Serves.append (events₁ := [_]) (answers₁ := [_]) (serves_of_step fun s rest hc he hp => ?_) ih
    subst hc he
    exact step_read_register (windowReg_digest j) (by simpa only [Nat.add_assoc] using hp)
end

end Sys2Proof.Machine

/-! The streaming commands against the pure digest function (43_commands.md rules R102 to R105 and R111): an ACTIVE
block holds the function's running values of the bytes it was fed, and FINALIZE leaves its final values. -/

namespace Sys2Proof.Machine

/-! ## The pure function on a message with bytes added -/

theorem hashBlocks_append (k : Dataset) (count : Nat) (x : HashState) {msg : List Byte} (d : List Byte)
    (h : 64 * count ≤ msg.length) : hashBlocks k count x (msg ++ d) = hashBlocks k count x msg := by
  induction count generalizing x msg with
  | zero => rfl
  | succ count ih =>
    rw [hashBlocks, hashBlocks, List.take_append_of_le_length (by omega), List.drop_append_of_le_length (by omega),
      ih _ (by rw [List.length_drop]; omega)]

/-- The last of the blocks is folded in last. -/
theorem hashBlocks_succ (k : Dataset) (count : Nat) (x : HashState) (msg : List Byte) :
    hashBlocks k (count + 1) x msg =
      (hashBlocks k count x msg).fold k (blockOfBytes ((msg.drop (64 * count)).take 64)) := by
  induction count generalizing x msg with
  | zero => rfl
  | succ count ih => rw [hashBlocks, ih, List.drop_drop, Nat.add_comm 64, ← Nat.mul_succ, hashBlocks]

theorem length_hashTail (msg : List Byte) : (hashTail msg).length = msg.length % 64 := by
  rw [hashTail, List.length_drop]
  omega

theorem hashTail_append_eq_drop (msg d : List Byte) :
    hashTail msg ++ d = (msg ++ d).drop (64 * (msg.length / 64)) := by
  rw [hashTail, List.drop_append_of_le_length (by omega)]

section
variable (k : Dataset) (w : DigestWidth) {msg d : List Byte}

/-- Bytes that do not fill the tail up to a block leave the running values alone. -/
theorem hashFull_append_short (h : (hashTail msg ++ d).length < 64) : hashFull k w (msg ++ d) = hashFull k w msg := by
  rw [List.length_append, length_hashTail] at h
  rw [hashFull, hashFull, List.length_append, show (msg.length + d.length) / 64 = msg.length / 64 by omega,
    hashBlocks_append _ _ _ _ (by omega)]

theorem hashTail_append_short (h : (hashTail msg ++ d).length < 64) : hashTail (msg ++ d) = hashTail msg ++ d := by
  rw [List.length_append, length_hashTail] at h
  rw [hashTail_append_eq_drop, hashTail, List.length_append,
    show (msg.length + d.length) / 64 = msg.length / 64 by omega]

/-- Bytes that fill the tail up to one block fold that block in. -/
theorem hashFull_append_full (h₁ : 64 ≤ (hashTail msg ++ d).length) (h₂ : (hashTail msg ++ d).length < 128) :
    hashFull k w (msg ++ d) = (hashFull k w msg).fold k (blockOfBytes ((hashTail msg ++ d).take 64)) := by
  rw [hashTail_append_eq_drop]
  rw [List.length_append, length_hashTail] at h₁ h₂
  rw [hashFull, hashFull, List.length_append, show (msg.length + d.length) / 64 = msg.length / 64 + 1 by omega,
    hashBlocks_succ, hashBlocks_append _ _ _ _ (by omega)]

theorem hashTail_append_full (h₁ : 64 ≤ (hashTail msg ++ d).length) (h₂ : (hashTail msg ++ d).length < 128) :
    hashTail (msg ++ d) = (hashTail msg ++ d).drop 64 := by
  rw [hashTail_append_eq_drop, List.drop_drop]
  rw [List.length_append, length_hashTail] at h₁ h₂
  rw [hashTail, List.length_append, show (msg.length + d.length) / 64 = msg.length / 64 + 1 by omega, Nat.mul_succ]
end

/-! ## The block holds the running values of the bytes it was fed -/

/-- `h`, `N` and `SIGMA`, as the values of rule R111. -/
def Engine.hashState (e : Engine) : HashState := ⟨e.h, e.n, e.sigma⟩

@[simp] theorem Engine.hashState_setBuf (e : Engine) (bytes : List Byte) : (e.setBuf bytes).hashState = e.hashState :=
  rfl

theorem Engine.hashState_absorbBlock (k : Dataset) (m : Block) (e : Engine) :
    (e.absorbBlock k m).hashState = e.hashState.fold k m := rfl

/-- An ACTIVE block of width `w` that has been fed `msg`. -/
structure Engine.Absorbed (k : Dataset) (w : DigestWidth) (msg : List Byte) (e : Engine) : Prop where
  phase : e.phase = .active
  w256 : e.w256 = decide (w = .w256)
  hashState : e.hashState = hashFull k w msg
  buf : e.buf = hashTail msg

section
variable {k : Dataset} {w : DigestWidth} {msg d : List Byte} {e : Engine}

theorem Engine.absorbed_start (k : Dataset) (w : DigestWidth) (e : Engine) :
    (Engine.start k (BitVec.ofNat 16 w.bits) e).Absorbed k w [] where
  phase := rfl
  w256 := by cases w <;> rfl
  hashState := by cases w <;> rfl
  buf := e.buf_emptyBuf

theorem Engine.Absorbed.report (h : e.Absorbed k w msg) (code : OutcomeCode) : (e.report code).Absorbed k w msg :=
  ⟨h.phase, h.w256, h.hashState, h.buf⟩

theorem Engine.Absorbed.writeData (h : e.Absorbed k w msg) (v : Reg64) : (e.writeData v).Absorbed k w msg :=
  ⟨h.phase, h.w256, h.hashState, h.buf⟩

/-- INGEST absorbs a block exactly when the pure function has one more full block to fold in. -/
theorem Engine.Absorbed.takeBytes (h : e.Absorbed k w msg) (hd : d.length ≤ 8) :
    (e.takeBytes k d).Absorbed k w (msg ++ d) := by
  have hlen := e.buf_append_length_le hd
  by_cases hshort : (e.buf ++ d).length < 64
  · have hbuf := e.buf_setBuf (e.buf ++ d) (by omega)
    rw [e.takeBytes_short k d hshort]
    rw [h.buf] at hshort hbuf ⊢
    exact ⟨h.phase, h.w256, h.hashState.trans (hashFull_append_short k w hshort).symm,
      hbuf.trans (hashTail_append_short hshort).symm⟩
  · have hbuf := Engine.buf_setBuf (e.absorbBlock k (blockOfBytes ((e.buf ++ d).take 64))) ((e.buf ++ d).drop 64)
      (by rw [List.length_drop]; omega)
    rw [e.takeBytes_full k d (by omega) (by omega)]
    rw [h.buf] at hshort hlen hbuf ⊢
    refine ⟨h.phase, h.w256, ?_, hbuf.trans (hashTail_append_full (by omega) (by omega)).symm⟩
    rw [hashState_setBuf, hashState_absorbBlock, h.hashState, hashFull_append_full k w (by omega) (by omega)]

/-- A FINALIZED block of width `w` that was fed `msg`. -/
structure Engine.Digested (k : Dataset) (w : DigestWidth) (msg : List Byte) (e : Engine) : Prop where
  phase : e.phase = .finalized
  w256 : e.w256 = decide (w = .w256)
  hashState : e.hashState = hashFinal k w msg
  lasterr : e.lasterr = .ok

theorem Engine.Absorbed.finalize (h : e.Absorbed k w msg) : (e.finalize k).Digested k w msg where
  phase := rfl
  w256 := h.w256
  hashState := by
    have hfinal : (e.finalize k).hashState = (e.finalSequence k).hashState := rfl
    rw [hfinal, Engine.hashState, Engine.finalSequence_h, Engine.finalSequence_n, Engine.finalSequence_sigma, hashFinal,
      ← h.hashState, ← h.buf, e.buf_length]
    rfl
  lasterr := rfl

/-- The DIGEST registers of the width show the final `h`, the others 0 (10_state.md rule R25). -/
theorem Engine.Digested.digestWord_eq (h : e.Digested k w msg) (j : Fin 8) :
    digestWord e j = if j.val < w.bits / 64 then intBE8 (wordAt (hashFinal k w msg).h j) else 0 := by
  have hh : e.h = (hashFinal k w msg).h := congrArg HashState.h h.hashState
  cases w with
  | w256 =>
    split_ifs with hj
    · rw [digestWord_of_shown h.phase (.inr (Nat.le_of_lt_succ hj)), hh]
    · exact digestWord_of_narrow h.w256 (not_lt.mp hj)
  | w512 =>
    have hj : j.val < DigestWidth.w512.bits / 64 := j.isLt
    rw [if_pos hj, digestWord_of_shown h.phase (.inl h.w256), hh]
end

end Sys2Proof.Machine

/-! The one-shot hash (30_encoding.md rule R59): what a host feeds the block, the chunks of ABSORB among them, and the
DIGEST registers read at the end. -/

namespace Sys2Proof.Machine

/-! ## Feeds -/

section
variable {c : Config} {w : DigestWidth}

/-- Every feed adds its bytes to what the block was fed, and no error is recorded. -/
theorem serves_feeds {feeds : List Feed} {msg : List Byte} {e : Engine} (h : e.Absorbed c.dataset w msg)
    (hcount : ∀ n, Feed.ingest n ∈ feeds → n.toNat ≤ 8) :
    ∃ e', Serves c e (feeds.map (Feed.event c.coreBase)) e' (List.replicate feeds.length .writeOkay) ∧
      e'.Absorbed c.dataset w (msg ++ fedBytes e.data feeds) ∧ e'.sticky = e.sticky := by
  induction feeds generalizing e msg with
  | nil => exact ⟨e, serves_nil, by simpa [fedBytes] using h, rfl⟩
  | cons f feeds ih =>
    have hrest : ∀ n, Feed.ingest n ∈ feeds → n.toNat ≤ 8 := fun n hn => hcount n (List.mem_cons_of_mem f hn)
    cases f with
    | data v =>
      obtain ⟨e', hserves, habsorbed, hsticky⟩ := ih (h.writeData v) hrest
      exact ⟨e', (serves_writeData v).append hserves, habsorbed, hsticky⟩
    | ingest n =>
      have hn : n.toNat ≤ 8 := hcount n List.mem_cons_self
      obtain ⟨e', hserves, habsorbed, hsticky⟩ :=
        ih ((h.takeBytes (dataBytes_length_le (v := e.data) hn)).report .ok) hrest
      refine ⟨e', (serves_ingest hn h.phase).append hserves, ?_, by simpa using hsticky⟩
      simpa [fedBytes] using habsorbed

/-- INIT, feeds and FINALIZE, from every state of the block. -/
theorem serves_message (c : Config) (w : DigestWidth) {feeds : List Feed} (e : Engine)
    (hcount : ∀ n, Feed.ingest n ∈ feeds → n.toNat ≤ 8) :
    ∃ e', Serves c e ([commandWrite c.coreBase (encode (initOf w))] ++ feeds.map (Feed.event c.coreBase) ++
        [commandWrite c.coreBase (encode .finalize)]) e' (List.replicate (feeds.length + 2) .writeOkay) ∧
      e'.Digested c.dataset w (fedBytes e.data feeds) ∧ e'.sticky = e.sticky := by
  obtain ⟨e', hfeeds, habsorbed, hsticky⟩ := serves_feeds ((e.absorbed_start c.dataset w).report .ok) hcount
  have hanswers : List.replicate (feeds.length + 2) Response.writeOkay =
      [.writeOkay] ++ List.replicate feeds.length .writeOkay ++ [.writeOkay] := by
    rw [List.append_assoc, ← List.replicate_succ']
    rfl
  rw [hanswers]
  exact ⟨e'.finalize c.dataset, ((serves_init w).append hfeeds).append (serves_finalize habsorbed.phase),
    habsorbed.finalize, by simpa [Engine.finalize] using hsticky⟩
end

/-! ## The chunks of ABSORB as feeds -/

/-- The feeds of one chunk (30_encoding.md rule R58). -/
def chunkFeeds (chunk : List Byte) : List Feed := [.data (chunkData chunk), .ingest (BitVec.ofNat 4 chunk.length)]

/-- The feeds of `ABSORB b`. -/
def absorbFeeds (bytes : List Byte) : List Feed := (chunksOf bytes ((bytes.length + 7) / 8)).flatMap chunkFeeds

theorem absorbEvents_eq_feeds (coreBase : Nat) (bytes : List Byte) :
    absorbEvents coreBase bytes = (absorbFeeds bytes).map (Feed.event coreBase) := by
  rw [absorbEvents, absorbFeeds, List.map_flatMap]
  rfl

theorem toNat_chunkLength {chunk : List Byte} (h : chunk.length ≤ 8) :
    (BitVec.ofNat 4 chunk.length).toNat = chunk.length := by
  rw [BitVec.toNat_ofNat, Nat.mod_eq_of_lt (by omega)]

theorem fedBytes_flatMap_chunkFeeds (data : Reg64) {chunks : List (List Byte)} (h : ∀ c ∈ chunks, c.length ≤ 8) :
    fedBytes data (chunks.flatMap chunkFeeds) = chunks.flatten := by
  induction chunks generalizing data with
  | nil => rfl
  | cons c chunks ih =>
    have hc : c.length ≤ 8 := h c List.mem_cons_self
    have hfed : fedBytes data ((c :: chunks).flatMap chunkFeeds) =
        dataBytes (chunkData c) (BitVec.ofNat 4 c.length).toNat ++
          fedBytes (chunkData c) (chunks.flatMap chunkFeeds) := rfl
    rw [hfed, toNat_chunkLength hc, dataBytes_chunkData hc, ih _ fun c' hc' => h c' (List.mem_cons_of_mem c hc'),
      List.flatten_cons]

theorem fedBytes_absorbFeeds (data : Reg64) (bytes : List Byte) : fedBytes data (absorbFeeds bytes) = bytes := by
  rw [absorbFeeds, fedBytes_flatMap_chunkFeeds data fun _ hc => (length_of_mem_absorbChunks hc).2,
    flatten_absorbChunks]

theorem count_le_of_mem_absorbFeeds {bytes : List Byte} {n : BitVec 4} (h : Feed.ingest n ∈ absorbFeeds bytes) :
    n.toNat ≤ 8 := by
  obtain ⟨c, hc, hn⟩ := List.mem_flatMap.mp h
  have hlen := (length_of_mem_absorbChunks hc).2
  obtain rfl : n = BitVec.ofNat 4 c.length := by simpa [chunkFeeds] using hn
  rwa [toNat_chunkLength hlen]

/-! ## The values read -/

/-- The DIGEST registers of a width, in read order. -/
def digestIndices (w : DigestWidth) : List (Fin 8) := (List.finRange 8).take (w.bits / 64)

theorem map_val_digestIndices (w : DigestWidth) : (digestIndices w).map Fin.val = List.range (w.bits / 64) := by
  cases w <;> rfl

theorem lt_of_mem_digestIndices {w : DigestWidth} {j : Fin 8} (h : j ∈ digestIndices w) : j.val < w.bits / 64 := by
  rw [← List.mem_range, ← map_val_digestIndices]
  exact List.mem_map_of_mem h

theorem digestReads_eq_map (coreBase : Nat) (w : DigestWidth) :
    digestReads coreBase w = (digestIndices w).map fun j => .read (coreBase + 0x40 + 8 * j.val) 8 := by
  rw [digestReads, ← map_val_digestIndices, List.map_map]
  rfl

theorem readBytes_append (a b : List Response) : readBytes (a ++ b) = readBytes a ++ readBytes b :=
  List.flatMap_append

theorem readBytes_replicate_writeOkay (n : Nat) : readBytes (List.replicate n .writeOkay) = [] := by
  simp [readBytes]

theorem readBytes_map_readOkay {α : Type} (f : α → Reg64) (js : List α) :
    readBytes (js.map fun j => .readOkay (f j)) = js.flatMap fun j => (wordBE (f j)).toList :=
  List.flatMap_map ..

theorem toList_wordAt (v : Block) (j : Fin 8) : (wordAt v j).toList = (v.toList.drop (8 * j.val)).take 8 := by
  apply List.ext_getElem
  · simp only [Vector.length_toList, List.length_take, List.length_drop]
    omega
  · intro i _ _
    simp [wordAt]

/-- The first words of a byte string are its first bytes. -/
theorem flatMap_range_words (bytes : List Byte) (count : Nat) :
    ((List.range count).flatMap fun j => (bytes.drop (8 * j)).take 8) = bytes.take (8 * count) := by
  induction count with
  | zero => simp
  | succ count ih => simp [List.range_succ, List.flatMap_append, ih, Nat.mul_succ, List.take_add]

theorem flatMap_digestIndices (v : Block) (w : DigestWidth) :
    ((digestIndices w).flatMap fun j => (wordAt v j).toList) = v.toList.take (w.bits / 8) := by
  have hbits : 8 * (w.bits / 64) = w.bits / 8 := by cases w <;> rfl
  rw [← hbits, ← flatMap_range_words, ← map_val_digestIndices, List.flatMap_map]
  simp only [toList_wordAt]

/-- Reading the DIGEST registers of a FINALIZED block gives the digest. -/
theorem Engine.Digested.readBytes_digestWord {k : Dataset} {w : DigestWidth} {msg : List Byte} {e : Engine}
    (h : e.Digested k w msg) :
    readBytes ((digestIndices w).map fun j => .readOkay (digestWord e j)) = hashDigest k w msg := by
  rw [readBytes_map_readOkay, hashDigest, ← flatMap_digestIndices]
  refine List.flatMap_congr fun j hj => ?_
  rw [h.digestWord_eq, if_pos (lt_of_mem_digestIndices hj), wordBE_intBE8]

theorem length_hashDigest (k : Dataset) (w : DigestWidth) (msg : List Byte) :
    (hashDigest k w msg).length = w.bits / 8 := by
  cases w <;> simp [hashDigest, DigestWidth.bits]

/-- Settles O50: ABSORB feeds the message, and the reads show the digest that FINALIZE leaves. -/
theorem oneShotHashReadsDigest : Obligations.OneShotHashReadsDigest := by
  unfold Obligations.OneShotHashReadsDigest
  intro w msg s rest hp
  obtain ⟨e, hmessage, hdigested, _⟩ :=
    serves_message s.config w s.engine fun n (hn : Feed.ingest n ∈ absorbFeeds msg) => count_le_of_mem_absorbFeeds hn
  rw [fedBytes_absorbFeeds] at hdigested
  have hall := hmessage.append (serves_readDigests (digestIndices w))
  rw [← digestReads_eq_map, ← absorbEvents_eq_feeds] at hall
  have hread : readBytes (List.replicate ((absorbFeeds msg).length + 2) .writeOkay ++
      (digestIndices w).map fun j => .readOkay (digestWord e j)) = hashDigest s.config.dataset w msg := by
    rw [readBytes_append, readBytes_replicate_writeOkay, List.nil_append, hdigested.readBytes_digestWord]
  exact ⟨_, _, hall s rest rfl rfl hp, rfl, rfl, hread, by rw [hread, length_hashDigest]⟩

end Sys2Proof.Machine

/-! The transform primitives S, P, LW, L, X, LPS and KLPS of 40_primitives.md, for every dataset: one lemma for what
each gives at a byte, a bit or a word, and from these their algebra and their bijectivity. -/

namespace Sys2Proof.Machine

/-! ## S, bytewise (rule R70) -/

/-- The entry of the substitution map at a byte. -/
def substituteByte (k : Dataset) (b : Byte) : Byte := k.pi[b.toNat]'b.isLt

theorem getElem_substitute (k : Dataset) (v : Block) (i : Nat) (hi : i < 64) :
    (substitute k v)[i] = substituteByte k v[i] :=
  Vector.getElem_map ..

theorem finite_bitVec (n : Nat) : Finite (BitVec n) :=
  Finite.of_injective BitVec.toFin BitVec.toFin_injective

/-- `WF(K)` asks that every byte stands in the map, and a byte can stand there once only. -/
theorem bijective_substituteByte {k : Dataset} (h : k.Wf) : Function.Bijective (substituteByte k) := by
  obtain ⟨hperm, -, -⟩ := h
  have := finite_bitVec 8
  refine Finite.surjective_iff_bijective.mp fun b => ?_
  have hmem : b ∈ k.pi.toList :=
    hperm.mem_iff.mpr (List.mem_map.mpr ⟨b.toNat, List.mem_range.mpr b.isLt, by simp⟩)
  obtain ⟨i, hi, hentry⟩ := Vector.getElem_of_mem (Vector.mem_toList_iff.mp hmem)
  exact ⟨BitVec.ofNat 8 i, by simpa [substituteByte, Nat.mod_eq_of_lt hi] using hentry⟩

theorem bijective_substitute {k : Dataset} (h : k.Wf) : Function.Bijective (substitute k) := by
  obtain ⟨hinj, hsurj⟩ := bijective_substituteByte h
  constructor
  · intro u v huv
    refine Vector.ext fun i hi => hinj ?_
    rw [← getElem_substitute k u i hi, ← getElem_substitute k v i hi, huv]
  · intro v
    obtain ⟨inv, hinv⟩ := hsurj.hasRightInverse
    exact ⟨v.map inv, Vector.ext fun i hi => by rw [getElem_substitute, Vector.getElem_map, hinv]⟩

/-- Settles O37: a byte of the output is the map's entry at that byte of the input, and the map is a bijection. -/
theorem substituteIsBytewiseBijection : Obligations.SubstituteIsBytewiseBijection := by
  unfold Obligations.SubstituteIsBytewiseBijection
  exact ⟨fun k v i => getElem_substitute k v i.val i.isLt, fun _ => bijective_substitute⟩

/-! ## P, the transposition (rules R71 and R72) -/

@[simp] theorem tau_tau (i : Fin 64) : tau (tau i) = i := by
  apply Fin.ext
  simp only [tau]
  omega

theorem tau_fromEnd (i : Fin 64) : (tau ⟨63 - i.val, by omega⟩).val = 63 - (tau i).val := by
  simp only [tau]
  omega

theorem tau_eq_self_iff (i : Fin 64) : tau i = i ↔ i.val % 9 = 0 := by
  rw [Fin.ext_iff]
  simp only [tau]
  omega

theorem getElem_permute (v : Block) (i : Fin 64) : (permute v)[i] = v[tau i] :=
  Vector.getElem_ofFn ..

theorem getElem_permute_tau (v : Block) (i : Fin 64) : (permute v)[tau i] = v[i] := by
  simp only [getElem_permute, tau_tau]

theorem permute_permute (v : Block) : permute (permute v) = v :=
  Vector.ext fun i hi => (getElem_permute (permute v) ⟨i, hi⟩).trans (getElem_permute_tau v ⟨i, hi⟩)

/-- Settles O38: `TAU` swaps the row `i / 8` and the column `i % 8`, and P reads through it. -/
theorem permuteTransposesBytes : Obligations.PermuteTransposesBytes := by
  unfold Obligations.PermuteTransposesBytes
  exact ⟨fun i => ⟨rfl, tau_tau i, tau_fromEnd i, tau_eq_self_iff i⟩,
    fun v i => ⟨getElem_permute v i, getElem_permute_tau v i⟩, permute_permute⟩

/-! ## LW, row by row (rule R73) -/

theorem linearRows_succ (a : Vector (BitVec 64) 64) (x : BitVec 64) (j : Nat) :
    linearRows a x (j + 1) = linearRows a x j ^^^ if x.getLsbD j then a[63 - j] else 0 := by
  rw [linearRows]
  split <;> simp

@[simp] theorem linearRows_zero (a : Vector (BitVec 64) 64) (count : Nat) : linearRows a 0#64 count = 0#64 := by
  induction count with
  | zero => rfl
  | succ j ih => simp [linearRows_succ, ih]

/-- Only the input bits below `count` select rows, so a bit above gives zero. -/
theorem linearRows_twoPow (a : Vector (BitVec 64) 64) {j count : Nat} (hj : j < 64) :
    linearRows a (BitVec.twoPow 64 j) count = if j < count then a[63 - j] else 0 := by
  induction count with
  | zero => rfl
  | succ c ih =>
    rw [linearRows_succ, ih, BitVec.getLsbD_twoPow]
    rcases Nat.lt_trichotomy j c with hlt | rfl | hgt
    · simp [hlt, hlt.ne, Nat.lt_succ_of_lt hlt]
    · simp [hj]
    · simp [hgt.ne', hgt.not_gt, show ¬ j < c + 1 by omega]

/-- A row selected by both operands cancels, as the bit does. -/
theorem linearRows_xor (a : Vector (BitVec 64) 64) (x y : BitVec 64) (count : Nat) :
    linearRows a (x ^^^ y) count = linearRows a x count ^^^ linearRows a y count := by
  induction count with
  | zero => simp [linearRows]
  | succ j ih =>
    have hrow : (if (x ^^^ y).getLsbD j then a[63 - j] else 0) =
        (if x.getLsbD j then a[63 - j] else 0) ^^^ if y.getLsbD j then a[63 - j] else 0 := by
      cases hx : x.getLsbD j <;> cases hy : y.getLsbD j <;> simp [hx, hy]
    rw [linearRows_succ, linearRows_succ, linearRows_succ, ih, hrow]
    ac_rfl

theorem linearWord_wordBE (k : Dataset) (x : BitVec 64) :
    linearWord k (wordBE x) = wordBE (linearRows k.a x 64) := by
  rw [linearWord, intBE8_wordBE]

theorem linearWord_zero (k : Dataset) : linearWord k (wordBE 0) = wordBE 0 :=
  (linearWord_wordBE k 0).trans (congrArg wordBE (linearRows_zero k.a 64))

/-- Settles O39: the loop over the input bits selects one row for one bit and is GF(2)-linear. -/
theorem linearWordSelectsRows : Obligations.LinearWordSelectsRows := by
  unfold Obligations.LinearWordSelectsRows
  intro k
  refine ⟨fun j => ?_, linearWord_zero k, fun x y => ?_⟩
  · rw [linearWord_wordBE, linearRows_twoPow k.a j.isLt, if_pos j.isLt]
  · simp only [linearWord_wordBE, intBE8_wordBE, linearRows_xor]

/-! ## LW by table lookup (rule R74) -/

/-- Bit `t` of byte `b` of a word is bit `8 (7 - b) + t` of its big-endian reading. -/
theorem getLsbD_intBE8 (w : Word) (b : Fin 8) {t : Nat} (ht : t < 8) :
    (intBE8 w).getLsbD (8 * (7 - b.val) + t) = w[b].getLsbD t := by
  rw [← extractLsb'_intBE8, BitVec.getLsbD_extractLsb', decide_eq_true ht, Bool.true_and,
    show 56 - 8 * b.val = 8 * (7 - b.val) by omega]

theorem linearRows_byte (a : Vector (BitVec 64) 64) (w : Word) (b : Fin 8) {t : Nat} (ht : t ≤ 8) :
    linearRows a (intBE8 w) (8 * (7 - b.val) + t) =
      linearRows a (intBE8 w) (8 * (7 - b.val)) ^^^ tableRows a b w[b] t := by
  induction t with
  | zero => simp [tableRows]
  | succ t ih =>
    have hrow : a[63 - (8 * (7 - b.val) + t)] = a[8 * b.val + (7 - t)] := by
      congr 1
      omega
    rw [← Nat.add_assoc, linearRows_succ, ih (by omega), getLsbD_intBE8 w b ht, hrow, tableRows]
    split <;> simp [BitVec.xor_assoc]

/-- The lookups of the last `count` bytes are the rows of the lowest `8 count` bits. -/
theorem foldl_tableEntry_drop (a : Vector (BitVec 64) 64) (w : Word) {count : Nat} (hc : count ≤ 8) (acc : BitVec 64) :
    ((List.finRange 8).drop (8 - count)).foldl (fun acc b => acc ^^^ tableEntry a b w[b]) acc =
      acc ^^^ linearRows a (intBE8 w) (8 * count) := by
  induction count generalizing acc with
  | zero => simp [linearRows, List.drop_of_length_le]
  | succ count ih =>
    have hhead : (List.finRange 8).drop (8 - (count + 1)) =
        ⟨7 - count, by omega⟩ :: (List.finRange 8).drop (8 - count) := by
      rw [List.drop_eq_getElem_cons (by rw [List.length_finRange]; omega), List.getElem_finRange,
        show 8 - (count + 1) + 1 = 8 - count by omega]
      simp [show 8 - (count + 1) = 7 - count by omega]
    have hbyte : linearRows a (intBE8 w) (8 * (count + 1)) =
        linearRows a (intBE8 w) (8 * count) ^^^ tableEntry a ⟨7 - count, by omega⟩ w[7 - count] := by
      have hfull := linearRows_byte a w ⟨7 - count, by omega⟩ (Nat.le_refl 8)
      rwa [show 8 * (7 - (7 - count)) = 8 * count by omega] at hfull
    rw [hhead, List.foldl_cons, ih (by omega), hbyte, BitVec.xor_assoc, BitVec.xor_comm (linearRows ..)]
    rfl

/-- Settles O40: the eight table entries together are the 64 rows that the loop of LW runs over. -/
theorem tableFormEqualsLinearWord : Obligations.TableFormEqualsLinearWord := by
  unfold Obligations.TableFormEqualsLinearWord
  intro k w
  exact congrArg wordBE ((foldl_tableEntry_drop k.a w (Nat.le_refl 8) 0).trans BitVec.zero_xor)

/-! ## L, word by word (rule R75) -/

@[simp] theorem wordAt_blockOfWords (ws : Vector Word 8) (i : Fin 8) : wordAt (blockOfWords ws) i = ws[i] := by
  refine Vector.ext fun j hj => ?_
  simp [wordAt, blockOfWords, show (8 * i.val + j) / 8 = i.val by omega, Nat.mod_eq_of_lt hj]

theorem block_ext_wordAt {u v : Block} (h : ∀ i, wordAt u i = wordAt v i) : u = v := by
  refine Vector.ext fun i hi => ?_
  have hword := congrArg (fun w : Word => w[i % 8]) (h ⟨i / 8, by omega⟩)
  simpa [wordAt, Nat.div_add_mod] using hword

theorem wordAt_linear (k : Dataset) (v : Block) (i : Fin 8) :
    wordAt (linear k v) i = linearWord k (wordAt v i) := by
  simp [linear]

theorem wordAt_zeros (i : Fin 8) : wordAt Block.zeros i = wordBE 0 := by
  refine Vector.ext fun j hj => ?_
  simp [wordAt, wordBE, Block.zeros]

theorem linear_zeros (k : Dataset) : linear k Block.zeros = Block.zeros :=
  block_ext_wordAt fun i => by rw [wordAt_linear, wordAt_zeros, linearWord_zero]

/-- Settles O41: a word of the output is LW of that word of the input. -/
theorem linearActsWordwise : Obligations.LinearActsWordwise := by
  unfold Obligations.LinearActsWordwise
  exact fun k v => ⟨wordAt_linear k v, linear_zeros k, fun h i j => by rw [wordAt_linear, wordAt_linear, h i j]⟩

/-! ## X and KLPS (rules R76 and R78) -/

theorem getElem_xorBlock (a b : Block) (i : Nat) (hi : i < 64) : (xorBlock a b)[i] = a[i] ^^^ b[i] :=
  Vector.getElem_zipWith ..

theorem getElem_zeros (i : Nat) (hi : i < 64) : Block.zeros[i] = 0 :=
  Vector.getElem_replicate ..

theorem xorBlock_self (a : Block) : xorBlock a a = Block.zeros :=
  Vector.ext fun i hi => by rw [getElem_xorBlock, BitVec.xor_self, getElem_zeros]; rfl

theorem xorBlock_zeros (a : Block) : xorBlock a Block.zeros = a :=
  Vector.ext fun i hi => by rw [getElem_xorBlock, getElem_zeros]; exact BitVec.xor_zero

theorem xorBlock_comm (a b : Block) : xorBlock a b = xorBlock b a :=
  Vector.ext fun i hi => by rw [getElem_xorBlock, getElem_xorBlock, BitVec.xor_comm]

theorem xorBlock_assoc (a b c : Block) : xorBlock (xorBlock a b) c = xorBlock a (xorBlock b c) :=
  Vector.ext fun i hi => by simp only [getElem_xorBlock, BitVec.xor_assoc]

/-- Settles O42: the laws of X are those of the exclusive or of bytes, and KLPS inherits them through LPS. -/
theorem xorAndKeyedChainLaws : Obligations.XorAndKeyedChainLaws := by
  unfold Obligations.XorAndKeyedChainLaws
  refine ⟨fun a b i => getElem_xorBlock a b i.val i.isLt,
    fun a b c => ⟨xorBlock_self a, xorBlock_zeros a, xorBlock_comm a b, xorBlock_assoc a b c⟩,
    fun k key v => ⟨rfl, ?_, ?_⟩⟩
  · rw [klps, klps, xorBlock_comm]
  · rw [klps, xorBlock_self]

/-! ## LPS (rule R77) -/

theorem bijective_permute : Function.Bijective permute :=
  Function.Involutive.bijective permute_permute

/-- The 64-bit values are finitely many, so a matrix that keeps them apart also reaches all of them. -/
theorem bijective_linearWord {k : Dataset} (h : Function.Injective fun x : BitVec 64 => linearRows k.a x 64) :
    Function.Bijective (linearWord k) := by
  have := finite_bitVec 64
  have hread : Function.Bijective intBE8 :=
    ⟨Function.LeftInverse.injective wordBE_intBE8, Function.RightInverse.surjective intBE8_wordBE⟩
  have hwrite : Function.Bijective wordBE :=
    ⟨Function.LeftInverse.injective intBE8_wordBE, Function.RightInverse.surjective wordBE_intBE8⟩
  exact hwrite.comp ((Finite.injective_iff_bijective.mp h).comp hread)

theorem bijective_linear {k : Dataset} (h : Function.Bijective (linearWord k)) : Function.Bijective (linear k) := by
  obtain ⟨hinj, hsurj⟩ := h
  constructor
  · intro u v huv
    refine block_ext_wordAt fun i => hinj ?_
    rw [← wordAt_linear, ← wordAt_linear, huv]
  · intro v
    obtain ⟨inv, hinv⟩ := hsurj.hasRightInverse
    refine ⟨blockOfWords (Vector.ofFn fun i => inv (wordAt v i)), block_ext_wordAt fun i => ?_⟩
    rw [wordAt_linear, wordAt_blockOfWords]
    simp [hinv (wordAt v i)]

/-- Settles O43: each of S, P and L is a bijection, S by `WF(K)` and L by the premise on the matrix. -/
theorem chainIsBijectiveWhenMatrixIsInvertible : Obligations.ChainIsBijectiveWhenMatrixIsInvertible := by
  unfold Obligations.ChainIsBijectiveWhenMatrixIsInvertible
  exact ⟨fun _ _ => rfl, fun _ hwf hinv =>
    (bijective_linear (bijective_linearWord hinv)).comp (bijective_permute.comp (bijective_substitute hwf))⟩

end Sys2Proof.Machine

/-! The compression function g of 41_compression.md: the pair that its loop carries is the next round key and the working
value, each from its own recursion. -/

namespace Sys2Proof.Machine

/-! ## The key schedule (rule R81) -/

/-- Within the twelve rounds the recursion of the key schedule takes a round constant of the dataset. -/
theorem roundKey_succ (k : Dataset) (h n : Block) (i : Nat) (hi : i < 12) :
    roundKey k h n (i + 1) = lps k (xorBlock (roundKey k h n i) k.c[i]) := by
  simp [roundKey, hi]

/-! ## The loop (rule R83) -/

/-- The loop invariant: after `i` rounds the loop holds `K_(i+1)` and `E_i`. -/
theorem foldl_compressRound_take (k : Dataset) (n h m : Block) (i : Nat) (hi : i ≤ 12) :
    (k.c.toList.take i).foldl (compressRound k) (lps k (xorBlock h n), m) =
      (roundKey k h n i, working k h n m i) := by
  induction i with
  | zero => rfl
  | succ i ih =>
    have hlen : i < k.c.toList.length := by simpa using hi
    rw [List.take_succ_eq_append_getElem hlen, List.foldl_append, ih (by omega), roundKey_succ k h n i hi]
    simp [compressRound, working]

theorem compress_eq (k : Dataset) (n h m : Block) :
    compress k n h m =
      xorBlock (xorBlock (xorBlock (roundKey k h n 12) (working k h n m 12)) h) m := by
  have hloop := foldl_compressRound_take k n h m 12 le_rfl
  rw [List.take_of_length_le (by simp)] at hloop
  rw [compress, hloop]

/-- Settles O44: the two recursions are the definitions of the key schedule and of the data path, and after its twelve
rounds the loop of g holds `K_13` and `E_12`. -/
theorem compressFollowsKeyScheduleAndDataPath : Obligations.CompressFollowsKeyScheduleAndDataPath := by
  unfold Obligations.CompressFollowsKeyScheduleAndDataPath
  exact fun k n h m =>
    ⟨rfl, fun i => roundKey_succ k h n i.val i.isLt, rfl, fun _ => rfl, compress_eq k n h m⟩

end Sys2Proof.Machine

/-! The adder and the padding of 42_arith_padding.md. A chain of digit additions is exact in every base: its digits,
with the carry out above them, make up the sum of the two numbers. The byte and limb forms of ADD512 are that chain at
bases 256 and 2^64, read back as blocks. -/

namespace Sys2Proof.Machine

/-! ## The carry chain (rules R90 and R91) -/

/-- The number that a digit string of `addDigits` stands for, most significant digit first. -/
def ofDigitsBE (base : Nat) (ds : List Nat) : Nat := Nat.ofDigits base ds.reverse

theorem ofDigitsBE_cons (base d : Nat) (ds : List Nat) :
    ofDigitsBE base (d :: ds) = base ^ ds.length * d + ofDigitsBE base ds := by
  simp [ofDigitsBE, Nat.ofDigits_append, Nat.add_comm]

theorem length_addDigits (base : Nat) {xs ys : List Nat} (h : xs.length = ys.length) :
    (addDigits base xs ys).2.length = xs.length := by
  induction xs generalizing ys with
  | nil => rfl
  | cons x xs ih =>
    obtain _ | ⟨y, ys⟩ := ys
    · cases h
    · exact congrArg (· + 1) (ih (Nat.succ.inj h))

theorem lt_of_mem_addDigits {base d : Nat} (hbase : 0 < base) {xs ys : List Nat} (h : d ∈ (addDigits base xs ys).2) :
    d < base := by
  induction xs generalizing ys with
  | nil => cases h
  | cons x xs ih =>
    obtain _ | ⟨y, ys⟩ := ys
    · cases h
    · obtain rfl | h := List.mem_cons.mp h
      · exact Nat.mod_lt _ hbase
      · exact ih h

/-- The chain loses nothing: in each place the digit and the carry make up the sum of that place. -/
theorem ofDigitsBE_addDigits (base : Nat) {xs ys : List Nat} (h : xs.length = ys.length) :
    base ^ xs.length * (addDigits base xs ys).1 + ofDigitsBE base (addDigits base xs ys).2 =
      ofDigitsBE base xs + ofDigitsBE base ys := by
  induction xs generalizing ys with
  | nil =>
    obtain rfl := List.length_eq_zero_iff.mp h.symm
    rfl
  | cons x xs ih =>
    obtain _ | ⟨y, ys⟩ := ys
    · cases h
    · have hlen : xs.length = ys.length := Nat.succ.inj h
      let rest := addDigits base xs ys
      have hplace := Nat.div_add_mod (x + y + rest.1) base
      calc base ^ (xs.length + 1) * ((x + y + rest.1) / base) +
            ofDigitsBE base ((x + y + rest.1) % base :: rest.2)
          = base ^ xs.length * (base * ((x + y + rest.1) / base) + (x + y + rest.1) % base) +
              ofDigitsBE base rest.2 := by
            rw [ofDigitsBE_cons, length_addDigits base hlen]
            ring
        _ = base ^ xs.length * (x + y) + (base ^ xs.length * rest.1 + ofDigitsBE base rest.2) := by
            rw [hplace]
            ring
        _ = ofDigitsBE base (x :: xs) + ofDigitsBE base (y :: ys) := by
            rw [ih hlen, ofDigitsBE_cons, ofDigitsBE_cons, ← hlen]
            ring

/-! ## ADD512 (rule R90) -/

theorem intBE_add512 (a b : Block) : intBE (add512 a b) = (intBE a + intBE b) % 2 ^ 512 := by
  rw [add512, intBE_vecBE, Nat.mod_mod]

theorem vecBE_zero : vecBE 0 = Block.zeros := by
  rw [← intBE_zeros, vecBE_intBE]

theorem add512_comm (a b : Block) : add512 a b = add512 b a := by
  rw [add512, add512, Nat.add_comm]

theorem add512_zeros (a : Block) : add512 a Block.zeros = a := by
  rw [add512, intBE_zeros, Nat.add_zero, Nat.mod_eq_of_lt (intBE_lt a), vecBE_intBE]

/-- The wrap is proved at every modulus, so that no tactic evaluates the numeral 2^512. -/
theorem add512_greatest_one : add512 (vecBE (2 ^ 512 - 1)) (vecBE 1) = Block.zeros := by
  have hwrap (m : Nat) (hm : 0 < m) : (m - 1 + 1) % m = 0 := by rw [Nat.sub_add_cancel hm, Nat.mod_self]
  rw [add512, intBE_vecBE, intBE_vecBE, ← Nat.add_mod, hwrap _ (Nat.two_pow_pos 512), vecBE_zero]

/-- Where blocks read as `count` digits of a base, the block of the chain's digits is ADD512's: the carry out of the
first digit weighs `2^512`, so discarding it is the reduction. -/
theorem eq_add512_of_addDigits {base count : Nat} (digits : Block → List Nat) (hsize : base ^ count = 2 ^ 512)
    (hlength : ∀ v, (digits v).length = count) (hread : ∀ v, intBE v = ofDigitsBE base (digits v)) {r a b : Block}
    (hr : digits r = (addDigits base (digits a) (digits b)).2) : r = add512 a b := by
  have hsum := ofDigitsBE_addDigits base ((hlength a).trans (hlength b).symm)
  rw [← hr, ← hread, ← hread, ← hread, hlength, hsize] at hsum
  rw [add512, ← hsum, Nat.mul_add_mod, Nat.mod_eq_of_lt (intBE_lt r), vecBE_intBE]

/-! ## The adder byte by byte (rule R90) -/

theorem toList_blockOfBytes {bytes : List Byte} (h : bytes.length = 64) : (blockOfBytes bytes).toList = bytes := by
  apply List.ext_getElem
  · simp [h]
  · simp +contextual [blockOfBytes]

/-- The bytes of a block as digits, as `add512Ripple` adds them. -/
def byteDigits (v : Block) : List Nat := v.toList.map BitVec.toNat

theorem length_byteDigits (v : Block) : (byteDigits v).length = 64 := by
  simp [byteDigits]

theorem natBE_eq_ofDigitsBE (bytes : List Byte) : natBE bytes = ofDigitsBE 256 (bytes.map BitVec.toNat) := by
  induction bytes with
  | nil => rfl
  | cons b bytes ih => rw [natBE_cons, ih, List.map_cons, ofDigitsBE_cons, List.length_map, Nat.mul_comm]

theorem intBE_eq_ofDigitsBE_bytes (v : Block) : intBE v = ofDigitsBE 256 (byteDigits v) :=
  natBE_eq_ofDigitsBE v.toList

theorem byteDigits_blockOfBytes {ds : List Nat} (hlen : ds.length = 64) (hlt : ∀ d ∈ ds, d < 256) :
    byteDigits (blockOfBytes (ds.map (BitVec.ofNat 8))) = ds := by
  rw [byteDigits, toList_blockOfBytes (by simpa using hlen), List.map_map]
  exact (List.map_congr_left fun d hd => Nat.mod_eq_of_lt (hlt d hd)).trans (List.map_id ds)

theorem add512Ripple_eq_add512 (a b : Block) : add512Ripple a b = add512 a b := by
  have hlen : (byteDigits a).length = (byteDigits b).length := by rw [length_byteDigits, length_byteDigits]
  exact eq_add512_of_addDigits byteDigits (by rw [← two_pow_eight_mul 64]) length_byteDigits intBE_eq_ofDigitsBE_bytes
    (byteDigits_blockOfBytes ((length_addDigits 256 hlen).trans (length_byteDigits a))
      fun _ => lt_of_mem_addDigits (by decide))

/-- Settles O45: the laws are those of the sum of the readings, and the bytes of a block are its digits at base 256. -/
theorem adderIsModular : Obligations.AdderIsModular := by
  unfold Obligations.AdderIsModular
  exact ⟨intBE_add512, add512Ripple_eq_add512, fun a b => ⟨add512_comm a b, add512_zeros a⟩, add512_greatest_one⟩

/-! ## The adder by 64-bit limbs (rule R91) -/

theorem length_limbs (v : Block) : (limbs v).length = 8 := by
  simp [limbs]

theorem toList_eq_flatMap_wordAt (v : Block) : v.toList = (List.finRange 8).flatMap fun q => (wordAt v q).toList := by
  have hwords := flatMap_range_words v.toList 8
  rw [← List.map_coe_finRange_eq_range, List.flatMap_map, List.take_of_length_le (by simp)] at hwords
  simpa only [toList_wordAt] using hwords.symm

theorem length_flatMap_words (ws : List Word) : (ws.flatMap fun w => w.toList).length = 8 * ws.length := by
  simp [List.length_flatMap, Nat.mul_comm]

theorem natBE_flatMap_words (ws : List Word) :
    natBE (ws.flatMap fun w => w.toList) = ofDigitsBE (2 ^ 64) (ws.map fun w => (intBE8 w).toNat) := by
  induction ws with
  | nil => rfl
  | cons w ws ih =>
    rw [List.flatMap_cons, natBE_append, ih, List.map_cons, ofDigitsBE_cons, toNat_intBE8, List.length_map,
      length_flatMap_words, Nat.mul_comm (natBE w.toList), pow_mul, ← two_pow_eight_mul 8]

theorem intBE_eq_ofDigitsBE_limbs (v : Block) : intBE v = ofDigitsBE (2 ^ 64) (limbs v) := by
  rw [intBE, toList_eq_flatMap_wordAt, ← List.flatMap_map, natBE_flatMap_words, List.map_map]
  rfl

/-- The limbs of a block made of eight limbs are those limbs. -/
theorem limbs_blockOfLimbs {ls : List Nat} (hlen : ls.length = 8) (hlt : ∀ l ∈ ls, l < 2 ^ 64) :
    limbs (blockOfLimbs ls) = ls := by
  apply List.ext_getElem
  · rw [length_limbs, hlen]
  · intro i _ hi
    simpa [limbs, blockOfLimbs, hi] using hlt ls[i] (List.getElem_mem hi)

theorem add512Limbs_eq_add512 (a b : Block) : add512Limbs a b = add512 a b := by
  have hlen : (limbs a).length = (limbs b).length := by rw [length_limbs, length_limbs]
  exact eq_add512_of_addDigits limbs (by rw [← pow_mul]) length_limbs intBE_eq_ofDigitsBE_limbs
    (limbs_blockOfLimbs ((length_addDigits (2 ^ 64) hlen).trans (length_limbs a))
      fun _ => lt_of_mem_addDigits (Nat.two_pow_pos 64))

/-- Settles O46: the limbs of a block are its digits at base 2^64. -/
theorem limbAdderEqualsAdder : Obligations.LimbAdderEqualsAdder := by
  unfold Obligations.LimbAdderEqualsAdder
  exact add512Limbs_eq_add512

/-! ## The padding (rule R95) -/

theorem toList_pad {tail : List Byte} (h : tail.length ≤ 63) :
    (pad tail).toList = List.replicate (63 - tail.length) 0 ++ [1] ++ tail :=
  toList_blockOfBytes (by simp; omega)

/-- The marker is bit `8r` of the reading, and the bits above it are zero. -/
theorem intBE_pad {tail : List Byte} (h : tail.length ≤ 63) :
    intBE (pad tail) = 2 ^ (8 * tail.length) + natBE tail := by
  rw [intBE, toList_pad h, natBE_append, natBE_concat, natBE_replicate_zero, two_pow_eight_mul]
  simp

/-- Settles O47: the bytes of PAD fill the block, and zero bytes at the front add nothing to its reading. -/
theorem paddingLayout : Obligations.PaddingLayout := by
  unfold Obligations.PaddingLayout
  exact fun t ht => ⟨toList_pad ht, intBE_pad ht⟩

end Sys2Proof.Machine

/-! The four commands one by one (43_commands.md rules R100 to R108): what each answers in each of its cases, the words
of its opcode that are illegal, and from these its effect, its frame and its errors, the transition table, and the
digest whatever the chunking. -/

namespace Sys2Proof.Machine

/-! ## What each command answers, case by case -/

theorem Engine.report_ok (e : Engine) : e.report .ok = { e with lasterr := .ok } := by
  rw [Engine.report, stickyAfter_ok]

section
variable {s : State} {width : BitVec 16} {n : BitVec 4}

theorem exec_init_valid (h : width = 256 ∨ width = 512) :
    exec (.init width) s = .next ((s.mapEngine (Engine.start s.config.dataset width)).report .ok) :=
  ((execInit_cases width s).resolve_right fun hbad => h.elim hbad.1.1 hbad.1.2).2

theorem exec_init_invalid (h₂₅₆ : width ≠ 256) (h₅₁₂ : width ≠ 512) :
    exec (.init width) s = .next (s.afterError .invalidParameter) :=
  ((execInit_cases width s).resolve_left fun hgood => hgood.1.elim h₂₅₆ h₅₁₂).2

theorem exec_ingest_large (h : 8 < n.toNat) : exec (.ingest n) s = .next (s.afterError .illegalCommand) := by
  rcases execIngest_cases n s with ⟨_, hexec⟩ | ⟨hn, _⟩ | ⟨hn, _⟩
  · exact hexec
  · exact absurd h (not_lt.mpr hn)
  · exact absurd h (not_lt.mpr hn)

theorem exec_ingest_inactive (hn : n.toNat ≤ 8) (h : s.engine.phase ≠ .active) :
    exec (.ingest n) s = .next (s.afterError .invalidState) := by
  rcases execIngest_cases n s with ⟨hlarge, _⟩ | ⟨_, _, hexec⟩ | ⟨_, hactive, _⟩
  · exact absurd hlarge (not_lt.mpr hn)
  · exact hexec
  · exact absurd hactive h

theorem exec_ingest_active (hn : n.toNat ≤ 8) (h : s.engine.phase = .active) :
    exec (.ingest n) s = .next ((s.mapEngine
      (Engine.takeBytes s.config.dataset (dataBytes s.engine.data n.toNat))).report .ok) := by
  rcases execIngest_cases n s with ⟨hlarge, _⟩ | ⟨_, hinactive, _⟩ | ⟨_, _, hexec⟩
  · exact absurd hlarge (not_lt.mpr hn)
  · exact absurd h hinactive
  · exact hexec

theorem exec_finalize_inactive (h : s.engine.phase ≠ .active) :
    exec .finalize s = .next (s.afterError .invalidState) :=
  ((execFinalize_cases s).resolve_right fun hactive => h hactive.1).2

theorem exec_finalize_active (h : s.engine.phase = .active) :
    exec .finalize s = .next (s.mapEngine (Engine.finalize s.config.dataset)) :=
  ((execFinalize_cases s).resolve_left fun hinactive => hinactive.1 h).2

theorem exec_clrerr (s : State) :
    exec .clrerr s = .next { s with engine := { s.engine with sticky := 0, lasterr := .ok } } :=
  congrArg (fun e : Engine => (.next { s with engine := e } : Outcome)) (Engine.report_ok { s.engine with sticky := 0 })

/-- A command changes nothing beside the block. -/
theorem State.sameEnvironment_withEngine (s : State) (e : Engine) : s.SameEnvironment { s with engine := e } :=
  ⟨rfl, rfl, rfl, rfl⟩
end

/-! ## Illegal words (43_commands.md rule R100) -/

theorem executeWord_of_illegal {v : Reg64} (h : legal v = false) (s : State) :
    executeWord v s = .next (s.afterError .illegalCommand) := by
  obtain ⟨err, herr⟩ := decode_error_iff_legal.mpr h
  rw [executeWord, herr]
  rfl

section
variable {v : Reg64} {opcode : BitVec 4}

/-- An opcode that takes neither WIDTH nor COUNT has one legal word. -/
theorem eq_commandWord_of_legal (hopc : opc v = opcode) (hinit : opcode ≠ 1) (hingest : opcode ≠ 2)
    (h : legal v = true) : v = commandWord 0 0 opcode := by
  subst hopc
  obtain ⟨_, hrsv0, hrsv1, hrsv2, hcount, hwidth, _⟩ := legal_iff_fields.mp h
  exact (commandWord_eq_iff.mpr
    ⟨rfl, hrsv0, hcount.resolve_left hingest, hrsv1, hwidth.resolve_left hinit, hrsv2⟩).symm

/-- Every other word of such an opcode is illegal. -/
theorem executeWord_of_ne_commandWord (hopc : opc v = opcode) (hinit : opcode ≠ 1) (hingest : opcode ≠ 2)
    (h : v ≠ commandWord 0 0 opcode) (s : State) : executeWord v s = .next (s.afterError .illegalCommand) :=
  executeWord_of_illegal (Bool.eq_false_iff.mpr fun hlegal => h (eq_commandWord_of_legal hopc hinit hingest hlegal)) s
end

/-! ## Chunking invariance (rule R108) -/

/-- Settles O49: INIT starts on the empty message, every feed adds its bytes to the running values of the pure function,
and FINALIZE turns those into its final ones. -/
theorem digestIndependentOfChunking : Obligations.DigestIndependentOfChunking := by
  unfold Obligations.DigestIndependentOfChunking
  intro w feeds s rest hcount hp msg final
  obtain ⟨e, hmessage, hdigested, hsticky⟩ := serves_message s.config w s.engine hcount
  have hrun := hmessage s rest rfl rfl (by simpa using hp)
  have hlen : ([commandWrite s.config.coreBase (encode (initOf w))] ++ feeds.map (Feed.event s.config.coreBase) ++
      [commandWrite s.config.coreBase (encode .finalize)]).length = feeds.length + 2 := by simp
  rw [hlen] at hrun
  have hfinal : e.hashState = final := hdigested.hashState
  exact ⟨_, hrun, rfl, hdigested.phase, hdigested.w256, congrArg HashState.h hfinal, congrArg HashState.n hfinal,
    congrArg HashState.sum hfinal, hdigested.lasterr, hsticky, rfl, hdigested.digestWord_eq⟩

/-! ## INIT (rule R101) -/

/-- Settles O10: INIT writes the width, the accumulators and the phase, and its errors are a width or a word refused. -/
theorem initStartsInstance : Obligations.InitStartsInstance := by
  unfold Obligations.InitStartsInstance
  refine ⟨fun w s hw => ?_, fun w s h₂₅₆ h₅₁₂ => exec_init_invalid h₂₅₆ h₅₁₂,
    fun v s _ h => executeWord_of_illegal h s⟩
  exact ⟨_, exec_init_valid hw, rfl, rfl, rfl, rfl, rfl, Engine.buf_emptyBuf _, rfl, rfl, stickyAfter_ok _, rfl,
    s.sameEnvironment_withEngine _⟩

/-! ## INGEST (rules R102, R103 and R109) -/

section
variable (k : Dataset) {d : List Byte} (e : Engine)

/-- Bytes that leave the buffer short of a block are buffered. -/
theorem Engine.takeBytes_of_short (h : (e.buf ++ d).length < 64) :
    (e.takeBytes k d).hashState = e.hashState ∧ (e.takeBytes k d).buf = e.buf ++ d := by
  rw [e.takeBytes_short k d h]
  exact ⟨rfl, e.buf_setBuf _ (by omega)⟩

/-- Bytes that complete a block have it folded in under the old `N`; what is left is buffered. -/
theorem Engine.takeBytes_of_full (hd : d.length ≤ 8) (h : 64 ≤ (e.buf ++ d).length) :
    (e.takeBytes k d).hashState = e.hashState.fold k (blockOfBytes ((e.buf ++ d).take 64)) ∧
      (e.takeBytes k d).buf = (e.buf ++ d).drop 64 := by
  have hlen := e.buf_append_length_le hd
  rw [e.takeBytes_full k d h (by omega)]
  exact ⟨rfl, Engine.buf_setBuf _ _ (by rw [List.length_drop]; omega)⟩

theorem Engine.takeBytes_buflen (hd : d.length ≤ 8) :
    (e.takeBytes k d).buflen.toNat = (e.buflen.toNat + d.length) % 64 := by
  have hlen := e.buf_append_length_le hd
  rw [← Engine.buf_length, ← Engine.buf_length, ← List.length_append]
  by_cases h : (e.buf ++ d).length < 64
  · rw [(e.takeBytes_of_short k h).2, Nat.mod_eq_of_lt h]
  · rw [(e.takeBytes_of_full k hd (by omega)).2, List.length_drop]
    omega
end

/-- Storing what the buffer holds changes nothing, BUFD beyond BUFLEN included. -/
theorem Engine.setBuf_buf (e : Engine) : e.setBuf e.buf = e := by
  have hbufd : overwrite e.bufd e.buf = e.bufd := by
    apply Vector.ext
    intro i hi
    by_cases h : i < e.buflen.toNat
    · simp [overwrite, Engine.buf, h, hi]
    · simp [overwrite, Engine.buf, h]
  rw [Engine.setBuf, hbufd, e.buf_length, BitVec.ofNat_toNat, BitVec.setWidth_eq]

theorem Engine.takeBytes_nil (k : Dataset) (e : Engine) : e.takeBytes k [] = e := by
  have hlen := e.buf_length_le
  rw [e.takeBytes_short k [] (by simp; omega), List.append_nil, e.setBuf_buf]

/-- Settles O11: the buffered bytes and the lanes of DATA fill at most one block, and taking no bytes changes no
buffer. -/
theorem ingestTakesBytesOfData : Obligations.IngestTakesBytesOfData := by
  unfold Obligations.IngestTakesBytesOfData
  refine ⟨?_, fun s hactive => ?_, fun n s hn h => exec_ingest_inactive hn h,
    fun n s h => exec_ingest_large h, fun v s _ h => executeWord_of_illegal h s⟩
  · intro n s hn hactive b m
    have hd : (dataBytes s.engine.data n.toNat).length ≤ 8 := dataBytes_length_le hn
    refine ⟨_, exec_ingest_active hn hactive, fun hshort => ?_, fun hfull => ?_, ?_,
      (Engine.takeBytes_phase ..).trans hactive, Engine.takeBytes_w256 .., Engine.takeBytes_data .., rfl,
      (stickyAfter_ok _).trans (Engine.takeBytes_sticky ..), s.sameEnvironment_withEngine _⟩
    · obtain ⟨hhash, hbuf⟩ := s.engine.takeBytes_of_short s.config.dataset hshort
      exact ⟨congrArg HashState.h hhash, congrArg HashState.n hhash, congrArg HashState.sum hhash, hbuf⟩
    · obtain ⟨hhash, hbuf⟩ := s.engine.takeBytes_of_full s.config.dataset hd hfull
      exact ⟨congrArg HashState.h hhash, congrArg HashState.n hhash, congrArg HashState.sum hhash, hbuf⟩
    · have hbuflen := s.engine.takeBytes_buflen s.config.dataset hd
      rwa [dataBytes_length] at hbuflen
  · have hnone : (s.engine.takeBytes s.config.dataset []).report .ok = { s.engine with lasterr := .ok } := by
      rw [Engine.takeBytes_nil, Engine.report_ok]
    rw [exec_ingest_active (by decide) hactive, ← hnone]
    rfl

/-! ## FINALIZE (rules R104 and R105) -/

section
variable (k : Dataset) (e : Engine)

theorem Engine.finalize_h : (e.finalize k).h = compress k Block.zeros
    (compress k Block.zeros (compress k e.n e.h (pad e.buf)) (e.finalize k).n) (e.finalize k).sigma := rfl

theorem Engine.finalize_n : (e.finalize k).n = add512 e.n (vecBE (8 * e.buflen.toNat)) := rfl

theorem Engine.finalize_sigma : (e.finalize k).sigma = add512 e.sigma (pad e.buf) := rfl
end

/-- Settles O12: the fields are those of the final sequence, with the buffer emptied; of OPC 3 one word is legal. -/
theorem finalizeFoldsTailLengthAndChecksum : Obligations.FinalizeFoldsTailLengthAndChecksum := by
  unfold Obligations.FinalizeFoldsTailLengthAndChecksum
  refine ⟨fun s hactive => ?_, fun s h => exec_finalize_inactive h,
    fun v s hopc hv => executeWord_of_ne_commandWord hopc (by decide) (by decide) hv s⟩
  intro p n sigma g
  exact ⟨_, exec_finalize_active hactive, s.engine.finalize_h _, s.engine.finalize_n _, s.engine.finalize_sigma _,
    rfl, Engine.buf_emptyBuf _, rfl, rfl, rfl, rfl, stickyAfter_ok _, s.sameEnvironment_withEngine _⟩

/-! ## CLRERR (rule R106) -/

/-- Settles O13: the report of OK adds no bit to the cleared STICKY; of OPC 4 one word is legal. -/
theorem clrerrClearsErrorRecord : Obligations.ClrerrClearsErrorRecord := by
  unfold Obligations.ClrerrClearsErrorRecord
  exact ⟨exec_clrerr, fun v s hopc hv => executeWord_of_ne_commandWord hopc (by decide) (by decide) hv s⟩

/-! ## The transition table (rule R107) -/

/-- The command's answer agrees with its cell of the table: the phase and the code, and an error changes nothing
else. -/
def FollowsTable (i : Instr) (s : State) : Prop :=
  ∃ t, exec i s = .next t ∧ (t.engine.phase, t.engine.lasterr) = transition s.engine.phase i ∧
    (t.engine.lasterr ≠ .ok → t = s.afterError t.engine.lasterr)

section
variable {i : Instr} {s t : State}

theorem followsTable_of_error {code : OutcomeCode} (hexec : exec i s = .next (s.afterError code))
    (htable : transition s.engine.phase i = (s.engine.phase, code)) : FollowsTable i s :=
  ⟨_, hexec, htable.symm, fun _ => rfl⟩

theorem followsTable_of_ok (hexec : exec i s = .next t) (hok : t.engine.lasterr = .ok)
    (htable : transition s.engine.phase i = (t.engine.phase, .ok)) : FollowsTable i s :=
  ⟨t, hexec, by rw [htable, hok], fun h => absurd hok h⟩
end

theorem transition_ingest_inactive {phase : Phase} {n : BitVec 4} (hn : n.toNat ≤ 8) (h : phase ≠ .active) :
    transition phase (.ingest n) = (phase, .invalidState) := by
  cases phase with
  | idle => exact if_neg (not_lt.mpr hn)
  | active => exact absurd rfl h
  | finalized => exact if_neg (not_lt.mpr hn)

theorem transition_finalize_inactive {phase : Phase} (h : phase ≠ .active) :
    transition phase .finalize = (phase, .invalidState) := by
  cases phase with
  | idle => rfl
  | active => exact absurd rfl h
  | finalized => rfl

/-- Each row of the table, one case of the command for each of its cells. -/
theorem followsTable (i : Instr) (s : State) : FollowsTable i s := by
  cases i with
  | init width =>
    by_cases hwidth : width = 256 ∨ width = 512
    · exact followsTable_of_ok (exec_init_valid hwidth) rfl (if_pos hwidth)
    · obtain ⟨h₂₅₆, h₅₁₂⟩ := not_or.mp hwidth
      exact followsTable_of_error (exec_init_invalid h₂₅₆ h₅₁₂) (if_neg hwidth)
  | ingest n =>
    by_cases hlarge : 8 < n.toNat
    · exact followsTable_of_error (exec_ingest_large hlarge) (if_pos hlarge)
    have hn : n.toNat ≤ 8 := not_lt.mp hlarge
    by_cases hactive : s.engine.phase = .active
    · refine followsTable_of_ok (exec_ingest_active hn hactive) rfl ?_
      simp [transition, hlarge, hactive]
    · exact followsTable_of_error (exec_ingest_inactive hn hactive) (transition_ingest_inactive hn hactive)
  | finalize =>
    by_cases hactive : s.engine.phase = .active
    · refine followsTable_of_ok (exec_finalize_active hactive) rfl ?_
      rw [hactive]
      rfl
    · exact followsTable_of_error (exec_finalize_inactive hactive) (transition_finalize_inactive hactive)
  | clrerr => exact followsTable_of_ok (exec_clrerr s) rfl rfl

/-- Settles O16: every command follows its row, and a word that is not legal is the last column. -/
theorem transitionTable : Obligations.TransitionTable := by
  unfold Obligations.TransitionTable
  refine ⟨fun i s => ?_, fun v s h => executeWord_of_illegal h s⟩
  obtain ⟨t, hexec, htable, herror⟩ := followsTable i s
  refine ⟨t, hexec, congrArg Prod.fst htable, congrArg Prod.snd htable, herror, ?_⟩
  rintro rfl
  cases (exec_clrerr s).symm.trans hexec
  rfl

end Sys2Proof.Machine

/-! Outcomes and their record (60_exceptions.md): the machine answers every event and idles without one, which commands
raise which outcome, and what the record of an outcome leaves as it was. -/

namespace Sys2Proof.Machine

/-! ## No stop (sections 1 and 2, rules R130, R140 and R145) -/

/-- Settles O8: a step idles, or takes the next event, and every event is answered. -/
theorem everyStepAnswersNext : Obligations.EveryStepAnswersNext := by
  unfold Obligations.EveryStepAnswersNext
  intro s
  cases hp : s.pending with
  | nil => exact ⟨s, step_idle s hp⟩
  | cons event rest =>
    obtain ⟨t, hstep, _⟩ := step_afterEvent s event rest hp
    exact ⟨t, hstep⟩

/-- Settles O9: the step with nothing to come. -/
theorem idleStepKeepsState : Obligations.IdleStepKeepsState := by
  unfold Obligations.IdleStepKeepsState
  exact step_idle

/-! ## INVALID_STATE (rule R135) -/

/-- Settles O15: the answers of the two commands outside ACTIVE. -/
theorem ingestOrFinalizeOutsideActiveIsInvalidState : Obligations.IngestOrFinalizeOutsideActiveIsInvalidState := by
  unfold Obligations.IngestOrFinalizeOutsideActiveIsInvalidState
  rintro s i hphase hwf (rfl | ⟨n, rfl⟩)
  · exact exec_finalize_inactive hphase
  · exact exec_ingest_inactive (of_decide_eq_true hwf) hphase

/-! ## Reporting (rules R131 and R134) -/

/-- The command can raise the outcome (rule R131): INVALID_PARAMETER is INIT's and INVALID_STATE is INGEST's and
FINALIZE's; a command that has an encoding does not raise ILLEGAL_COMMAND. -/
def OutcomeCode.RaisedBy (i : Instr) : OutcomeCode → Prop
  | .ok => True
  | .invalidParameter => ∃ width, i = .init width
  | .invalidState => i = .finalize ∨ ∃ n, i = .ingest n
  | .illegalCommand => i.wf = false

/-- Every cell of the transition table holds an outcome that its command can raise. -/
theorem transition_raisedBy (phase : Phase) (i : Instr) : (transition phase i).2.RaisedBy i := by
  cases i with
  | init width =>
    simp only [transition]
    split
    · trivial
    · exact ⟨width, rfl⟩
  | ingest n =>
    by_cases hlarge : 8 < n.toNat
    · rw [show transition phase (.ingest n) = (phase, .illegalCommand) from if_pos hlarge]
      exact decide_eq_false (not_le.mpr hlarge)
    by_cases hactive : phase = .active
    · subst hactive
      rw [show transition .active (.ingest n) = (.active, .ok) from if_neg hlarge]
      trivial
    · rw [transition_ingest_inactive (not_lt.mp hlarge) hactive]
      exact .inr ⟨n, rfl⟩
  | finalize =>
    cases phase with
    | idle => exact .inl rfl
    | active => trivial
    | finalized => exact .inl rfl
  | clrerr => trivial

/-- A command that reports OK keeps STICKY, unless it is CLRERR. -/
theorem Engine.AfterCommand.sticky_of_ok {k : Dataset} {e e' : Engine} {i : Instr} (h : e.AfterCommand k i e')
    (hok : e'.lasterr = .ok) : e'.sticky = e.sticky ∨ (i = .clrerr ∧ e'.sticky = 0) := by
  cases h with
  | failed _ code hcode => exact absurd hok hcode
  | started => exact .inl (stickyAfter_ok _)
  | tookBytes => exact .inl ((stickyAfter_ok _).trans (Engine.takeBytes_sticky _ _ _))
  | finalized => exact .inl (stickyAfter_ok _)
  | cleared => exact .inr ⟨rfl, stickyAfter_ok 0⟩

/-- What a command reports: an OK that leaves STICKY to CLRERR, or an error that the command can raise and that changes
nothing but the record. -/
theorem exec_reports (i : Instr) (s : State) :
    ∃ t, exec i s = .next t ∧
      (t.engine.lasterr = .ok → t.engine.sticky = s.engine.sticky ∨ (i = .clrerr ∧ t.engine.sticky = 0)) ∧
      ∀ code, code ≠ .ok → t.engine.lasterr = code → code.RaisedBy i ∧ t = s.afterError code := by
  obtain ⟨t, hexec, htable, herror⟩ := followsTable i s
  refine ⟨t, hexec, ?_, ?_⟩
  · obtain ⟨e, he, hafter⟩ := exec_afterCommand i s
    cases hexec.symm.trans he
    exact hafter.sticky_of_ok
  · rintro code hcode rfl
    have hcell : t.engine.lasterr = (transition s.engine.phase i).2 := congrArg Prod.snd htable
    exact ⟨hcell ▸ transition_raisedBy s.engine.phase i, herror hcode⟩

/-- Settles O17: a word that is not legal reports ILLEGAL_COMMAND, and a legal one what its command reports. -/
theorem outcomeIsReportedInLasterrAndSticky : Obligations.OutcomeIsReportedInLasterrAndSticky := by
  unfold Obligations.OutcomeIsReportedInLasterrAndSticky
  refine ⟨⟨rfl, rfl, rfl, rfl⟩, fun v s => ?_⟩
  cases hlegal : legal v with
  | false => exact ⟨_, executeWord_of_illegal hlegal s, nofun, nofun, nofun, fun _ => ⟨rfl, rfl⟩⟩
  | true =>
    obtain ⟨i, hdecode⟩ := legal_iff_decode.mp hlegal
    obtain ⟨t, hexec, hok, herror⟩ := exec_reports i s
    refine ⟨t, (executeWord_of_decode v i s hdecode).trans hexec, ?_, ?_, ?_, ?_⟩
    · intro h
      refine (hok h).imp_right ?_
      rintro ⟨rfl, hsticky⟩
      exact ⟨decode_clrerr_iff.mp hdecode, hsticky⟩
    · intro h
      obtain ⟨⟨width, rfl⟩, ht⟩ := herror .invalidParameter nofun h
      exact ⟨⟨width, hdecode⟩, ht⟩
    · intro h
      obtain ⟨rfl | ⟨n, rfl⟩, ht⟩ := herror .invalidState nofun h
      · exact ⟨.inl hdecode, ht⟩
      · exact ⟨.inr ⟨n, hdecode⟩, ht⟩
    · intro h
      obtain ⟨hillFormed, _⟩ := herror .illegalCommand nofun h
      exact absurd (wf_of_decode hdecode) (Bool.eq_false_iff.mp hillFormed)

end Sys2Proof.Machine

/-! Reset and the lifetime of a digest (70_reset_and_hazards.md): the step on each of the two resets, the command that
completes just before a reset, and what of a digest outlives a command. -/

namespace Sys2Proof.Machine

/-! ## Reset between two accesses (rule R150) -/

theorem statusWord_reset : statusWord Engine.reset = 0 := rfl

theorem digestWord_reset (j : Fin 8) : digestWord Engine.reset j = 0 := digestWord_of_ne_finalized (by decide) j

section
variable {s : State} {rest : List BusEvent}

theorem step_reset (hp : s.pending = .reset :: rest) : step s = .next (resetBlock { s with pending := rest }) :=
  step_event s .reset rest hp
end

/-- Settles O26: the step resets the block and touches nothing beside it. -/
theorem resetTakesEveryStateToResetValues : Obligations.ResetTakesEveryStateToResetValues := by
  unfold Obligations.ResetTakesEveryStateToResetValues
  intro s rest hp
  exact ⟨_, step_reset hp, rfl, rfl, rfl, rfl, statusWord_reset, digestWord_reset⟩

/-! ## Reset during a command (rule R151) -/

section
variable {s : State} {rest : List BusEvent} {v : Reg64}

theorem step_commandCutByReset (hp : s.pending = .commandCutByReset v :: rest) :
    step s = .next (resetBlock { s with pending := rest }).respondPlatform :=
  step_event s (.commandCutByReset v) rest hp

theorem core_run_reset (hp : s.pending = .reset :: rest) :
    Sys2Proof.core.run 1 s = .next (resetBlock { s with pending := rest }) :=
  core_run_succ 0 s _ (step_reset hp)

/-- A reset right after a command leaves no trace of it in the block: every word answers a next state, the reset stays
the next event, and what the command wrote is reset with the rest. -/
theorem core_run_commandWrite_reset (hp : s.pending = commandWrite s.config.coreBase v :: .reset :: rest) :
    ∃ t, Sys2Proof.core.run 2 s = .next t ∧ t.engine = Engine.reset := by
  obtain ⟨f, hf⟩ := executeWord_mapEngine v { s with pending := .reset :: rest }
  have hcommand := step_commandWrite s _ v (.reset :: rest) hp hf
  exact ⟨_, (core_run_succ 1 s _ hcommand).trans (core_run_reset rfl), rfl⟩
end

/-- Settles O27: all three runs end in the reset block, and the one answer is the platform's next free value. -/
theorem resetDuringCommandAbandonsIt : Obligations.ResetDuringCommandAbandonsIt := by
  unfold Obligations.ResetDuringCommandAbandonsIt
  intro s rest v hp
  obtain ⟨completed, hcompleted, hengine⟩ := core_run_commandWrite_reset
    (s := { s with pending := commandWrite s.config.coreBase v :: .reset :: rest }) rfl
  exact ⟨_, Config.platformReply s.platformDraws, completed, _, step_commandCutByReset hp, hcompleted,
    core_run_reset rfl, hengine.symm, rfl, rfl, rfl, rfl, rfl⟩

/-! ## The lifetime of a digest (rule R157) -/

/-- A command that fails leaves the DIGEST registers as they are. -/
theorem digestWord_afterError (s : State) (code : OutcomeCode) (j : Fin 8) :
    digestWord (s.afterError code).engine j = digestWord s.engine j :=
  digestWord_congr rfl rfl rfl j

/-- Settles O35: a failing command and CLRERR keep PHASE, W256 and `h`, of which a DIGEST register is a view; a
successful INIT and a reset leave FINALIZED, outside which it reads 0. -/
theorem digestLifetime : Obligations.DigestLifetime := by
  unfold Obligations.DigestLifetime
  refine ⟨fun s j hphase => digestWord_of_ne_finalized hphase j, fun s hphase i hi => ?_, fun s w hw => ?_,
    fun s rest hp => ⟨_, step_reset hp, digestWord_reset⟩⟩
  · rcases hi with ⟨w, rfl, h₂₅₆, h₅₁₂⟩ | rfl | rfl
    · exact ⟨_, exec_init_invalid h₂₅₆ h₅₁₂, digestWord_afterError s _⟩
    · have hinactive : s.engine.phase ≠ .active := by simp [hphase]
      exact ⟨_, exec_finalize_inactive hinactive, digestWord_afterError s _⟩
    · exact ⟨_, exec_clrerr s, digestWord_congr rfl rfl rfl⟩
  · exact ⟨_, exec_init_valid hw, digestWord_of_ne_finalized nofun⟩

end Sys2Proof.Machine
